-- ==== Sys2Proof/Word.lean ====
section
/-! DEFINITION. The widths the block knows (20_memory.md R39): the byte, the quintet, the two quanta, the 1-bit
operation identifier, and the small types of the tables and of the decoder's outputs. -/

namespace Sys2Proof

/-- An unsigned 8-bit value (00_scope.md R10); a symbol on a port is one byte (20_memory.md R43). -/
abbrev Byte := BitVec 8

/-- An unsigned 5-bit value, `u5` (00_scope.md R10). -/
abbrev Quintet := BitVec 5

/-- Five raw bytes as one port value, B0 in the top bits (00_scope.md R12, 20_memory.md R41). -/
abbrev ByteQuantum := BitVec 40

/-- Eight symbol bytes as one port value, S0 in the top bits (20_memory.md R42). -/
abbrev TextQuantum := BitVec 64

/-- The position j of a symbol or a quintet, 0 the most significant (00_scope.md R11). -/
abbrev Lane := Fin 8

/-- The operation identifier `op` (30_encoding.md R62). -/
abbrev Op := BitVec 1

/-- An entry of the reverse table: `Valid(v)` or the sentinel (10_state.md R24, R28). -/
inductive Entry where
  | invalid
  | valid (v : Quintet)
  deriving DecidableEq, Repr

/-- The forward lookup table, 32 bytes (10_state.md R22). -/
abbrev ForwardTable := Vector Byte 32

/-- The reverse lookup table, 256 entries (10_state.md R24). -/
abbrev ReverseTable := Vector Entry 256

/-- The one error kind, without payload (60_exceptions.md R100). -/
inductive ErrorKind where
  | invalidSyntax
  deriving DecidableEq, Repr

/-- The decoder's two output ports (30_encoding.md R60). -/
structure DecOutputs where
  valid : BitVec 1
  out : ByteQuantum
  deriving DecidableEq, Repr

end Sys2Proof
end

