-- ==== Sys2Proof/Machine/Operands.lean ====
section
/-! DEFINITION. The fields of the port formats and how they are put together: bytes, symbols and quintets
(20_memory.md R41, R42; 30_encoding.md R57 to R61). -/

namespace Sys2Proof.Machine

/-- Quintet j of a byte quantum, `V[39-5j : 35-5j]` (00_scope.md R12, 30_encoding.md R61). -/
def quintet (v : ByteQuantum) (j : Lane) : Quintet := v.extractLsb' (35 - 5 * j.val) 5

/-- Symbol j of a text quantum, port bits `[63-8j : 56-8j]` (20_memory.md R42, 30_encoding.md R58, R59). -/
def symbol (t : TextQuantum) (j : Lane) : Byte := t.extractLsb' (56 - 8 * j.val) 8

/-- Byte k of a byte quantum, port bits `[39-8k : 32-8k]` (20_memory.md R41, 30_encoding.md R57). -/
def quantumByte (v : ByteQuantum) (k : Fin 5) : Byte := v.extractLsb' (32 - 8 * k.val) 8

/-- `{v0, ..., v7}`, v0 most significant (41_decode.md R80). -/
def packQuintets (q : Lane → Quintet) : ByteQuantum :=
  q 0 ++ q 1 ++ q 2 ++ q 3 ++ q 4 ++ q 5 ++ q 6 ++ q 7

/-- `{S0, ..., S7}`, S0 most significant (40_encode.md R70). -/
def packText (c : Lane → Byte) : TextQuantum :=
  c 0 ++ c 1 ++ c 2 ++ c 3 ++ c 4 ++ c 5 ++ c 6 ++ c 7

/-- `V(B) = {B0, ..., B4}`, B0 most significant (00_scope.md R12). -/
def packBytes (b0 b1 b2 b3 b4 : Byte) : ByteQuantum := b0 ++ b1 ++ b2 ++ b3 ++ b4

/-- The eight symbols of a text quantum, the leftmost character first (00_scope.md R11). -/
def textSymbols (t : TextQuantum) : List Byte :=
  [symbol t 0, symbol t 1, symbol t 2, symbol t 3, symbol t 4, symbol t 5, symbol t 6, symbol t 7]

/-- The five bytes of a byte quantum, B0 first (00_scope.md R11). -/
def quantumBytes (v : ByteQuantum) : List Byte :=
  [quantumByte v 0, quantumByte v 1, quantumByte v 2, quantumByte v 3, quantumByte v 4]

/-- The byte quantum of exactly five bytes, B0 first; no other number of bytes is one (20_memory.md R46). -/
def quantumOfBytes : List Byte → Option ByteQuantum
  | [b0, b1, b2, b3, b4] => some (packBytes b0 b1 b2 b3 b4)
  | _ => none

/-- The text quantum of exactly eight bytes, S0 first; no other number of bytes is one (20_memory.md R46). -/
def textOfBytes : List Byte → Option TextQuantum
  | [s0, s1, s2, s3, s4, s5, s6, s7] => some (s0 ++ s1 ++ s2 ++ s3 ++ s4 ++ s5 ++ s6 ++ s7)
  | _ => none

end Sys2Proof.Machine
end

