-- ==== Sys2Proof/Config.lean ====
section
/-! DEFINITION. The parameters of the block: the fixed ones of 00_scope.md R6, and the one open parameter T_PD. -/

namespace Sys2Proof.Config

/-- `QUANTUM_BYTES` (00_scope.md R6). -/
def quantumBytes : Nat := 5

/-- `QUANTUM_SYMBOLS` (00_scope.md R6). -/
def quantumSymbols : Nat := 8

/-- `BITS_PER_SYMBOL` (00_scope.md R6). -/
def bitsPerSymbol : Nat := 5

/-- `ALPHABET_SIZE` (00_scope.md R6). -/
def alphabetSize : Nat := 32

/-- `SYMBOL_WIDTH` in bits (00_scope.md R6). -/
def symbolWidth : Nat := 8

/-- `RLUT_ENTRIES` (00_scope.md R6). -/
def rlutEntries : Nat := 256

/-- `ACC_WIDTH`, the width of the reference algorithms' integer (00_scope.md R6). -/
def accWidth : Nat := 64

/-- `T_PD`, the propagation delay: an open parameter that no rule's outcome reads (70_reset_and_hazards.md R128,
92_eei_decisions.md D16, 93_implementation_defined.md U5). It has no body, so nothing can be proved of its value. -/
opaque propagationDelay : Nat

end Sys2Proof.Config
end

