-- ==== Sys2Proof/Syntax.lean ====
section
/-! DEFINITION. The operations of the block (30_encoding.md R62, R63), one constructor per row of
spec/opcode_table.json, and the frame in which the host presents one. -/

namespace Sys2Proof

/-- A transaction: which unit it goes to, and the quantum on that unit's input port (30_encoding.md R62, R63). -/
inductive Instr where
  /-- `ENC [b0,...,b4]`, op 0, format ENC-IN (30_encoding.md R57). -/
  | enc (encIn : ByteQuantum)
  /-- `DEC [c0,...,c7]`, op 1, format DEC-IN (30_encoding.md R59). -/
  | dec (decIn : TextQuantum)
  deriving DecidableEq, Repr

/-- Eight wires of an input port. `undef` has a 1 for every wire that is not a defined 0 or 1
(70_reset_and_hazards.md R127); `value` says what the other wires carry. -/
structure PortByte where
  value : Byte
  undef : Byte
  deriving DecidableEq, Repr

/-- A byte all of whose wires are defined. -/
def PortByte.known (b : Byte) : PortByte := { value := b, undef := 0 }

/-- What the host puts before a unit: the operation identifier and the bytes on the input port, most significant
byte first (30_encoding.md R62; 95_test_vectors.md section 3: the encoding of a transaction is its `op` value and
its input port value). -/
structure Drive where
  op : Op
  port : List PortByte
  deriving DecidableEq, Repr

end Sys2Proof
end

