-- ==== Sys2Proof/WellFormed.lean ====
section
/-! DEFINITION. Which frames a host can present. A term of Instr needs no check: its operand has the port's width
and every value of it is legal (30_encoding.md R57, R59, R66). A Drive is checked for its width and for bits that are
not a defined 0 or 1. -/

namespace Sys2Proof

/-- How many bytes the input port of the unit named by `op` has (30_encoding.md R55). -/
def portBytes (op : Op) : Nat := if op = 0 then Config.quantumBytes else Config.quantumSymbols

/-- The frame is exactly as wide as the port: a partial quantum cannot be presented (20_memory.md R46). -/
def Drive.fitsPort (d : Drive) : Bool := d.port.length == portBytes d.op

/-- Every wire carries a defined 0 or 1 (70_reset_and_hazards.md R127). -/
def Drive.defined (d : Drive) : Bool := d.port.all fun b => b.undef == 0

/-- A frame that the spec gives a meaning. -/
def Drive.wellFormed (d : Drive) : Bool := d.fitsPort && d.defined

end Sys2Proof
end

