-- ==== Sys2Proof/Decode.lean ====
section
/-! DEFINITION. From the frame on the port to a transaction, and back (30_encoding.md R57, R59, R62). Total on every
frame; a frame that the spec gives no meaning is rejected by name. -/

namespace Sys2Proof

/-- Why a frame is no transaction. -/
inductive DecodeError where
  /-- A wire of the port is not a defined 0 or 1 (70_reset_and_hazards.md R127). -/
  | undefinedBit
  /-- The frame is not as wide as the port (20_memory.md R46, 30_encoding.md R55). -/
  | portWidth
  deriving DecidableEq, Repr

/-- The transaction that `op` and the bytes on the port name: op 0 is ENC, op 1 is DEC (30_encoding.md R62). -/
def decodeBytes (op : Op) (bytes : List Byte) : Except DecodeError Instr :=
  if op = 0 then
    match Machine.quantumOfBytes bytes with
    | some v => .ok (.enc v)
    | none => .error .portWidth
  else
    match Machine.textOfBytes bytes with
    | some t => .ok (.dec t)
    | none => .error .portWidth

/-- The transaction a frame holds. -/
def decode (d : Drive) : Except DecodeError Instr :=
  if d.defined then decodeBytes d.op (d.port.map PortByte.value) else .error .undefinedBit

/-- The frame of a transaction: its `op` (30_encoding.md R62) and its port's bytes, most significant first
(20_memory.md R41, R42). -/
def encode : Instr → Drive
  | .enc v => { op := 0, port := (Machine.quantumBytes v).map PortByte.known }
  | .dec t => { op := 1, port := (Machine.textSymbols t).map PortByte.known }

/-- Byte k of the port in a word numbered as spec/opcode_table.json numbers it. The table gives only bit 0, `op`
(its mask is 0x1). DESIGN CHOICE (log entry 10): bits 7..1, outside the mask, say nothing; the port's bytes follow
from bit 8 up, the most significant byte of the port first. -/
def tableWordByte (w k : Nat) : Byte := BitVec.ofNat 8 (w >>> (8 * (k + 1)))

/-- The frame of a word numbered as spec/opcode_table.json numbers it, `nbits` of its bits given, the rest 0. -/
def tableWordDrive (nbits w : Nat) : Drive :=
  let given := w % 2 ^ nbits
  let op : Op := BitVec.ofNat 1 given
  { op := op, port := (List.range (portBytes op)).map fun k => PortByte.known (tableWordByte given k) }

/-- The instruction the decoder reads from such a word. -/
def decodeTableWord (nbits w : Nat) : Option Instr := (decode (tableWordDrive nbits w)).toOption

end Sys2Proof
end

