-- ==== Sys2Proof/Machine/Flags.lean ====
section
/-! DEFINITION. The one status, `dec_valid`: the AND of the eight lanes' validity bits (41_decode.md R81, R84). -/

namespace Sys2Proof.Machine

/-- The validity bit of an entry (10_state.md R28). -/
def entryOk : Entry → BitVec 1
  | .invalid => 0
  | .valid _ => 1

/-- The value of an entry, zero where it is the sentinel (41_decode.md R80, `v_j`). -/
def entryValue : Entry → Quintet
  | .invalid => 0
  | .valid v => v

/-- The AND of the eight lanes' validity bits (41_decode.md R84). -/
def lanesValid (r : Lane → Entry) : BitVec 1 :=
  entryOk (r 0) &&& entryOk (r 1) &&& entryOk (r 2) &&& entryOk (r 3) &&&
  entryOk (r 4) &&& entryOk (r 5) &&& entryOk (r 6) &&& entryOk (r 7)

end Sys2Proof.Machine
end

