-- ==== Sys2Proof/Machine/Tables.lean ====
section
/-! DEFINITION. The two constant tables, entry by entry, and the construction of the reverse table from an alphabet
with its duplicate check (10_state.md R21 to R28). -/

namespace Sys2Proof.Machine

/-- The alphabet of 10_state.md R21, its bytes as in the table of R22, index 0 first. -/
def fixedAlphabet : ForwardTable :=
  #v[0x30, 0x31, 0x32, 0x33, 0x34, 0x35, 0x36, 0x37, 0x38, 0x39,
     0x61, 0x62, 0x63, 0x64, 0x65, 0x66, 0x67, 0x68, 0x6A, 0x6B, 0x6D,
     0x6E, 0x70, 0x71, 0x72, 0x73, 0x74, 0x76, 0x77, 0x78, 0x79, 0x7A]

/-- Sixteen `Invalid` entries, a row of the grid of 10_state.md R24 without a symbol. -/
def invalidRow : Vector Entry 16 := Vector.replicate 16 .invalid

/-- Row 0x3_ of the grid of 10_state.md R24. -/
def row3 : Vector Entry 16 :=
  #v[.valid 0, .valid 1, .valid 2, .valid 3, .valid 4, .valid 5, .valid 6, .valid 7,
     .valid 8, .valid 9, .invalid, .invalid, .invalid, .invalid, .invalid, .invalid]

/-- Row 0x6_ of the grid of 10_state.md R24. -/
def row6 : Vector Entry 16 :=
  #v[.invalid, .valid 10, .valid 11, .valid 12, .valid 13, .valid 14, .valid 15, .valid 16,
     .valid 17, .invalid, .valid 18, .valid 19, .invalid, .valid 20, .valid 21, .invalid]

/-- Row 0x7_ of the grid of 10_state.md R24. -/
def row7 : Vector Entry 16 :=
  #v[.valid 22, .valid 23, .valid 24, .valid 25, .valid 26, .invalid, .valid 27, .valid 28,
     .valid 29, .valid 30, .valid 31, .invalid, .invalid, .invalid, .invalid, .invalid]

/-- The reverse table of 10_state.md R24, its rows 0x0_ to 0xF_. -/
def fixedReverseTable : ReverseTable :=
  invalidRow ++ invalidRow ++ invalidRow ++ row3 ++ invalidRow ++ invalidRow ++ row6 ++ row7 ++
  invalidRow ++ invalidRow ++ invalidRow ++ invalidRow ++ invalidRow ++ invalidRow ++ invalidRow ++ invalidRow

/-- `ALPHABET[i]` (00_scope.md R10). -/
def readAlphabet (a : ForwardTable) (i : Quintet) : Byte := a[i.toNat]'i.isLt

/-- `RLUT[c]` (00_scope.md R10). -/
def readRlut (r : ReverseTable) (c : Byte) : Entry := r[c.toNat]'c.isLt

/-- All 256 entries at the sentinel (10_state.md R25). -/
def blankTable : ReverseTable := Vector.replicate 256 .invalid

/-- One write of the construction: it fails if the cell is already written (10_state.md R25, R26). -/
def writeCell (r : ReverseTable) (c : Byte) (i : Quintet) : Option ReverseTable :=
  if readRlut r c = .invalid then some (r.set c.toNat (.valid i) c.isLt) else none

/-- The construction's loop, from index i on, over the symbols still to be written (10_state.md R25). -/
def constructFrom : List Byte → Nat → ReverseTable → Option ReverseTable
  | [], _, r => some r
  | c :: cs, i, r => (writeCell r c (BitVec.ofNat 5 i)).bind (constructFrom cs (i + 1))

/-- The construction of the reverse table from a candidate alphabet: none if it fails (10_state.md R25, R26). -/
def construct (a : ForwardTable) : Option ReverseTable := constructFrom a.toList 0 blankTable

/-- The six bits `{ok, v[4:0]}` in which this hardware holds an entry (10_state.md R28). -/
def entryBits : Entry → BitVec 6
  | .invalid => 0
  | .valid v => (1 : BitVec 1) ++ v

end Sys2Proof.Machine
end

