-- ==== Sys2Proof/Machine/Ops.lean ====
section
/-! DEFINITION. The two units as functions of their input port and of their table: the lanes and what joins them
(40_encode.md R70, R73; 41_decode.md R80, R82, R89). The block takes no exception (60_exceptions.md R103): a rejection
is a value of the decoder's outputs, and `rejected` is that one value. -/

namespace Sys2Proof.Machine

/-- Lane j of the encoder: `ALPHABET[Q_j]` (40_encode.md R70, R73). -/
def encLane (a : ForwardTable) (v : ByteQuantum) (j : Lane) : Byte := readAlphabet a (quintet v j)

/-- `enc_out` as the function of `enc_in` (40_encode.md R70). -/
def encodeQuantum (a : ForwardTable) (v : ByteQuantum) : TextQuantum := packText (encLane a v)

/-- Lane j of the decoder: `RLUT[S_j]` (41_decode.md R80, R89). -/
def decLane (r : ReverseTable) (t : TextQuantum) (j : Lane) : Entry := readRlut r (symbol t j)

/-- `dec_out` when the input is rejected: for this hardware zero, the spec's own choice (41_decode.md R82,
92_eei_decisions.md D5, 93_implementation_defined.md U2; log entry 7). -/
def decOutOnError : ByteQuantum := 0

/-- The outputs of a rejection: the code `dec_valid = 0` and nothing else (60_exceptions.md R100). -/
def rejected : DecOutputs := { valid := 0, out := decOutOnError }

/-- The outputs of an accepted input: `{v0, ..., v7}` (41_decode.md R80). -/
def accepted (r : Lane → Entry) : DecOutputs :=
  { valid := 1, out := packQuintets fun j => entryValue (r j) }

/-- `dec_valid` and `dec_out` as the function of `dec_in` (41_decode.md R80). -/
def decodeQuantum (r : ReverseTable) (t : TextQuantum) : DecOutputs :=
  if lanesValid (decLane r t) = 1 then accepted (decLane r t) else rejected

/-- The decoder's outputs as the source's result type: `dec_valid` is its discriminant, `dec_out` its payload
(30_encoding.md R60, R63). -/
def outcomeOf (o : DecOutputs) : Except ErrorKind ByteQuantum :=
  if o.valid = 1 then .ok o.out else .error .invalidSyntax

end Sys2Proof.Machine
end

