-- ==== Sys2Proof/Machine/State.lean ====
section
/-! DEFINITION. The state: the two constant tables, the ports of the two units in the present stable window, and the
transactions the host is going to present. INVENTORY.md lists every field with its rule and its reset value. -/

namespace Sys2Proof.Machine

/-- Faults of the machine: none. The block has no trap mechanism (60_exceptions.md R103), and its one error outcome is
a value on `dec_valid` (R100), so this closed inductive has no constructor. Safe: nothing is stopped by it. -/
inductive Fault where
  deriving DecidableEq, Repr

/-- Reasons for which there is no outcome to show. -/
inductive Refusal where
  /-- Raised by exec's arm of an instruction that has no meaning yet; no arm is one. Safe. -/
  | notModelled (mnemonic : String)
  /-- Raised by step on an input with a bit that is not a defined 0 or 1: a model treats it as refused
  (70_reset_and_hazards.md R127; log entry 4). Safe. -/
  | undefinedInput
  /-- Raised by step on a frame that is not as wide as the unit's port: it cannot be presented (20_memory.md R46;
  log entry 5). Safe. -/
  | portWidth
  /-- Raised by elaborate on an alphabet with a duplicate symbol: no such block exists (10_state.md R26,
  93_implementation_defined.md U4; log entry 6). Safe. -/
  | duplicateSymbol
  deriving DecidableEq, Repr

/-- The state of the block and of the host before it. -/
structure State where
  /-- The forward table ALPHABET (10_state.md R22). -/
  alphabet : ForwardTable
  /-- The reverse table RLUT (10_state.md R24). -/
  rlut : ReverseTable
  /-- The port `enc_in`, held by the host (30_encoding.md R57). -/
  encIn : ByteQuantum
  /-- The port `enc_out` (30_encoding.md R58). -/
  encOut : TextQuantum
  /-- The port `dec_in`, held by the host (30_encoding.md R59). -/
  decIn : TextQuantum
  /-- The port `dec_out` (30_encoding.md R60). -/
  decOut : ByteQuantum
  /-- The port `dec_valid` (30_encoding.md R60). -/
  decValid : BitVec 1
  /-- The model's own field: the transactions the host is going to present, oldest first (log entry 3). -/
  pending : List Drive
  deriving DecidableEq, Repr

/-- A built block at power-up with the given tables: its outputs are the functions of its inputs from power-up on
(70_reset_and_hazards.md R121). DESIGN CHOICE (log entries 2 and 3): the host drives zeros and has nothing pending. -/
def State.powerUp (a : ForwardTable) (r : ReverseTable) : State :=
  { alphabet := a
    rlut := r
    encIn := 0
    encOut := encodeQuantum a 0
    decIn := 0
    decOut := (decodeQuantum r 0).out
    decValid := (decodeQuantum r 0).valid
    pending := [] }

/-- The block after power-up; it has no reset input, and its tables hold their constant contents at all times
(10_state.md R33, 70_reset_and_hazards.md R120, R121). -/
def State.reset : State := State.powerUp fixedAlphabet fixedReverseTable

end Sys2Proof.Machine
end

