-- ==== Sys2Proof/Machine/Ports.lean ====
section
/-! DEFINITION. The named operations over the state: the host presents a quantum to a unit, the next frame is taken
from the host, and a block is elaborated from a candidate alphabet. -/

namespace Sys2Proof.Machine

/-- The host drives v on `enc_in`, and the encoder's output settles (30_encoding.md R56, 40_encode.md R74). -/
def State.presentEnc (s : State) (v : ByteQuantum) : State :=
  { s with encIn := v, encOut := encodeQuantum s.alphabet v }

/-- The host drives t on `dec_in`, and the decoder's outputs settle (30_encoding.md R56, 41_decode.md R88). -/
def State.presentDec (s : State) (t : TextQuantum) : State :=
  { s with
    decIn := t
    decOut := (decodeQuantum s.rlut t).out
    decValid := (decodeQuantum s.rlut t).valid }

/-- The host is going to present these frames. -/
def State.withPending (s : State) (ds : List Drive) : State := { s with pending := ds }

/-- The present outcome of the decoder (30_encoding.md R60, R63). -/
def State.decResult (s : State) : Except ErrorKind ByteQuantum :=
  outcomeOf { valid := s.decValid, out := s.decOut }

/-- The refusal of a frame that is no transaction. -/
def refusalOf : DecodeError → Refusal
  | .undefinedBit => .undefinedInput
  | .portWidth => .portWidth

/-- Elaboration of a design with a candidate alphabet: the built block at power-up, or, for an alphabet with a
duplicate symbol, no block (10_state.md R25, R26, 60_exceptions.md R102). -/
def elaborate (a : ForwardTable) : Host.Outcome State Fault Refusal :=
  match construct a with
  | some r => .next (State.powerUp a r)
  | none => .refused .duplicateSymbol

end Sys2Proof.Machine
end

