-- ==== Sys2Proof/Machine/Decoder.lean ====
section
/-! DEFINITION. The meaning of DEC, the operation of `base32_decoder` (41_decode.md). -/

namespace Sys2Proof.Machine

/-- `DEC` (41_decode.md R80, R88): `dec_valid` and `dec_out` become the outcome of `dec_in`; a rejection is an outcome
on these ports and no trap (60_exceptions.md R103), and nothing else is written. -/
def execDec (decIn : TextQuantum) (s : State) : Host.Outcome State Fault Refusal :=
  .next (s.presentDec decIn)

end Sys2Proof.Machine
end

