-- ==== Sys2Proof/Machine/Encoder.lean ====
section
/-! DEFINITION. The meaning of ENC, the operation of `base32_encoder` (40_encode.md). -/

namespace Sys2Proof.Machine

/-- `ENC` (40_encode.md R70, R74): `enc_out` becomes the text of `enc_in`; it cannot fail and writes nothing else. -/
def execEnc (encIn : ByteQuantum) (s : State) : Host.Outcome State Fault Refusal :=
  .next (s.presentEnc encIn)

end Sys2Proof.Machine
end

