-- ==== Sys2Proof/Machine/Dispatch.lean ====
section
/-! DEFINITION. Which meaning each transaction has (30_encoding.md R62). -/

namespace Sys2Proof.Machine

def exec (i : Instr) (s : State) : Host.Outcome State Fault Refusal :=
  match i with
  | .enc encIn => Sys2Proof.Machine.execEnc encIn s
  | .dec decIn => Sys2Proof.Machine.execDec decIn s

end Sys2Proof.Machine
end

