-- ==== Sys2Proof/Machine/Step.lean ====
section
/-! DEFINITION. One step: the oldest frame of the host is presented, as one whole transaction (30_encoding.md R56,
20_memory.md R47). -/

namespace Sys2Proof.Machine

/-- One step. With nothing pending the host holds its inputs and every output stays (30_encoding.md R56; log entry 3);
otherwise the oldest frame is taken and its transaction is executed. -/
def step (s : State) : Host.Outcome State Fault Refusal :=
  match s.pending with
  | [] => .next s
  | d :: ds =>
    match decode d with
    | .ok i => exec i (s.withPending ds)
    | .error e => .refused (refusalOf e)

/-- The word's frame becomes the next the host presents; the frames that were pending follow it. -/
def State.withFetchWord (s : State) (nbits w : Nat) : State :=
  s.withPending (tableWordDrive nbits w :: s.pending)

end Sys2Proof.Machine
end

