-- ==== Sys2Proof/Machine/Reference.lean ====
section
/-! DEFINITION. The source's sequential algorithms, a second statement of the two functions (40_encode.md R72,
41_decode.md R83). The machine does not use them: the parallel lanes are normative (90_conflicts.md C3). -/

namespace Sys2Proof.Machine

/-- The loop of 40_encode.md R72, `n` symbols still to emit from the 64-bit value x. -/
def encodeLoop (a : ForwardTable) : Nat → BitVec 64 → List Byte
  | 0, _ => []
  | n + 1, x => readAlphabet a ((x >>> 59).setWidth 5) :: encodeLoop a n (x <<< 5)

/-- The source's encode: the five bytes are the high-order 40 bits of a 64-bit value (40_encode.md R72). -/
def referenceEncode (a : ForwardTable) (v : ByteQuantum) : List Byte := encodeLoop a 8 (v ++ (0 : BitVec 24))

/-- The loop of 41_decode.md R83: it stops at the first symbol that is not in the alphabet. -/
def decodeLoop (r : ReverseTable) : List Byte → BitVec 64 → Except ErrorKind (BitVec 64)
  | [], acc => .ok acc
  | c :: cs, acc =>
    match readRlut r c with
    | .invalid => .error .invalidSyntax
    | .valid v => decodeLoop r cs ((acc <<< 5) ||| v.setWidth 64)

/-- The source's decode: the low-order 40 bits of the accumulator (41_decode.md R83). -/
def referenceDecode (r : ReverseTable) (t : TextQuantum) : Except ErrorKind ByteQuantum :=
  match decodeLoop r (textSymbols t) 0 with
  | .ok acc => .ok (acc.setWidth 40)
  | .error e => .error e

end Sys2Proof.Machine
end

