-- ==== Sys2Proof/Machine/Wrapper.lean ====
section
/-! DEFINITION. The boundary contract of the identifier wrapper, the block's only caller: the composite forms of
30_encoding.md R64 and 00_scope.md R14 to R16, as transactions of the block and the checks the wrapper itself makes.
They are no operations of the block (00_scope.md R5). -/

namespace Sys2Proof.Machine

/-- One block transaction after another: go on from a next state, pass a stop on. -/
def andThen {α β : Type} (o : Host.Outcome α Fault Refusal) (f : α → Host.Outcome β Fault Refusal) :
    Host.Outcome β Fault Refusal :=
  match o with
  | .next x => f x
  | .fault e => .fault e
  | .refused e => .refused e

/-- The separator, a hyphen (00_scope.md R14). -/
def separator : Byte := 0x2D

/-- An identifier: the 5-byte form, or the 10-byte form as its two quanta (00_scope.md R13, R16). -/
inductive Identifier where
  | small (b : ByteQuantum)
  | large (b c : ByteQuantum)
  deriving DecidableEq, Repr

/-- Formatting a 5-byte identifier: one ENC (00_scope.md R14). -/
def formatSmall (b : ByteQuantum) (s : State) : Host.Outcome (List Byte × State) Fault Refusal :=
  andThen (exec (.enc b) s) fun s' => .next (textSymbols s'.encOut, s')

/-- `FMT10`: two ENC joined by the separator (30_encoding.md R64). -/
def formatLarge (b c : ByteQuantum) (s : State) : Host.Outcome (List Byte × State) Fault Refusal :=
  andThen (formatSmall b s) fun x =>
  andThen (formatSmall c x.2) fun y => .next (x.1 ++ separator :: y.1, y.2)

/-- Formatting of either form (00_scope.md R14). -/
def formatIdentifier : Identifier → State → Host.Outcome (List Byte × State) Fault Refusal
  | .small b, s => formatSmall b s
  | .large b c, s => formatLarge b c s

/-- Parsing 8 characters: one DEC; another length is the wrapper's own malformed-syntax error, without a transaction
(00_scope.md R15). -/
def parseSmall (text : List Byte) (s : State) : Host.Outcome (Except ErrorKind ByteQuantum × State) Fault Refusal :=
  match textOfBytes text with
  | some t => andThen (exec (.dec t) s) fun s' => .next (s'.decResult, s')
  | none => .next (.error .invalidSyntax, s)

/-- The outcome of the two chunks: Ok only if both are (30_encoding.md R64). -/
def joinResults : Except ErrorKind ByteQuantum → Except ErrorKind ByteQuantum → Except ErrorKind Identifier
  | .ok b, .ok c => .ok (.large b c)
  | _, _ => .error .invalidSyntax

/-- `PARSE10`: length 17 and the separator at index 8 are the wrapper's checks; then a DEC of each chunk
(30_encoding.md R64). DESIGN CHOICE (log entry 8): the second DEC is issued whatever the first one gave. -/
def parseLarge (text : List Byte) (s : State) : Host.Outcome (Except ErrorKind Identifier × State) Fault Refusal :=
  if text.length = 17 ∧ text[8]? = some separator then
    andThen (parseSmall (text.take 8) s) fun x =>
    andThen (parseSmall (text.drop 9) x.2) fun y => .next (joinResults x.1 y.1, y.2)
  else .next (.error .invalidSyntax, s)

/-- Parsing of the tagged union: 8 characters are the small form, anything else is tried as the large one
(00_scope.md R16). -/
def parseIdentifier (text : List Byte) (s : State) : Host.Outcome (Except ErrorKind Identifier × State) Fault Refusal :=
  if text.length = 8 then
    andThen (parseSmall text s) fun x => .next (x.1.map Identifier.small, x.2)
  else parseLarge text s

end Sys2Proof.Machine
end

