-- ==== Sys2Proof/Safety.lean ====
section
/-! DEFINITION. What claims say of a state: its tables are the constants, its ports are settled, and the host presents
nothing but frames the spec gives a meaning. -/

namespace Sys2Proof.Machine

/-- Both tables hold their constant contents (10_state.md R31, R33). -/
abbrev State.TablesFixed (s : State) : Prop := s.alphabet = fixedAlphabet ∧ s.rlut = fixedReverseTable

/-- The reverse table is the one built from the alphabet, whatever alphabet was built in (10_state.md R25). -/
abbrev State.TablesBuilt (s : State) : Prop := construct s.alphabet = some s.rlut

/-- Every output is the function of its present input (70_reset_and_hazards.md R121). -/
abbrev State.Settled (s : State) : Prop :=
  s.encOut = encodeQuantum s.alphabet s.encIn ∧
  s.decOut = (decodeQuantum s.rlut s.decIn).out ∧
  s.decValid = (decodeQuantum s.rlut s.decIn).valid

/-- The invariant of the machine. -/
abbrev State.Inv (s : State) : Prop := s.TablesFixed ∧ s.Settled

/-- Every frame the host is going to present has a meaning. -/
abbrev State.PendingWellFormed (s : State) : Prop := ∀ d ∈ s.pending, d.wellFormed = true

/-- A text quantum whose every symbol is one of the alphabet's bytes (41_decode.md R81). -/
abbrev AllSymbolsIn (a : ForwardTable) (t : TextQuantum) : Prop := ∀ j : Lane, ∃ i : Quintet, readAlphabet a i = symbol t j

end Sys2Proof.Machine
end

