-- ==== Sys2Proof/Certificates/Slice0/Obligations.lean ====
section
/-! DEFINITION. The statements for the provers. Statements about a transaction are about `exec`, in every state, with
the tables that state holds; where a claim is about the fixed alphabet its premise says so. -/

open Sys2Proof Sys2Proof.Machine

/-! ### The encode operation (40_encode.md) -/

/-- 40_encode.md R70, whole: the pseudocode (symbol j is the alphabet symbol of `V[39-5j : 35-5j]`), no status, no
failure, and, with the fixed alphabet, its corner cases and its worked example. R70 prints these as characters; their
byte codes here are ASCII, which the spec takes from general knowledge (93 G1; PRESUMED, log entry 12). -/
def Obligations.EncodeMapsQuintetsThroughAlphabet : Prop :=
  ∀ (s : State) (v : ByteQuantum), ∃ x : TextQuantum,
    exec (.enc v) s = .next { s with encIn := v, encOut := x } ∧
    (∀ j : Lane, x.extractLsb' (56 - 8 * j.val) 8 = readAlphabet s.alphabet (v.extractLsb' (35 - 5 * j.val) 5)) ∧
    (s.alphabet = fixedAlphabet →
      (v = 0 → x = 0x3030303030303030) ∧
      (v = 0xFFFFFFFFFF → x = 0x7A7A7A7A7A7A7A7A) ∧
      (v.toNat < 32 → ∀ j : Lane, j ≠ 7 → symbol x j = 0x30) ∧
      (v = 32 → x = 0x3030303030303130) ∧
      (v = 0x8000000000 → symbol x 0 = 0x67) ∧
      (v = 0xF0E1D2C3B4 → x = 0x793367783567786D))

/-- 40_encode.md R74: ENC writes only `enc_out` (the host put `enc_in` there), and its output is a function of
`enc_in` and the forward table alone. The tables, the decoder's ports and what the host will present stay. -/
def Obligations.EncodeFrameAndPurity : Prop :=
  ∀ (v : ByteQuantum) (s t : State), exec (.enc v) s = .next t →
    t.alphabet = s.alphabet ∧ t.rlut = s.rlut ∧ t.encIn = v ∧
    t.decIn = s.decIn ∧ t.decOut = s.decOut ∧ t.decValid = s.decValid ∧ t.pending = s.pending ∧
    (∀ s' t' : State, s'.alphabet = s.alphabet → exec (.enc v) s' = .next t' → t'.encOut = t.encOut)

/-- 30_encoding.md R58: each of the eight fields of `enc_out` holds an alphabet byte, in every state of the invariant
and after every ENC. -/
def Obligations.EncoderOutputHoldsAlphabetBytes : Prop :=
  ∀ s : State, s.Inv →
    (∀ j : Lane, ∃ i, readAlphabet fixedAlphabet i = s.encOut.extractLsb' (56 - 8 * j.val) 8) ∧
    (∀ v, ∃ t, exec (.enc v) s = .next t ∧
      ∀ j : Lane, ∃ i, readAlphabet fixedAlphabet i = t.encOut.extractLsb' (56 - 8 * j.val) 8)

/-- The digit and letter clauses of R71, which the spec marks as derived; the codes are ASCII (93 G1; log entry 12). -/
def Obligations.EncodeEmitsDigitsOrLowercaseLetters : Prop :=
  ∀ (s : State) (v : ByteQuantum), s.TablesFixed → ∃ t, exec (.enc v) s = .next t ∧
    ∀ j : Lane,
      ((quintet v j).toNat ≤ 9 ↔ 0x30 ≤ (symbol t.encOut j).toNat ∧ (symbol t.encOut j).toNat ≤ 0x39) ∧
      (9 < (quintet v j).toNat ↔ 0x61 ≤ (symbol t.encOut j).toNat ∧ (symbol t.encOut j).toNat ≤ 0x7A) ∧
      symbol t.encOut j ∉ [(0x2D : Byte), 0x69, 0x6C, 0x6F, 0x75]

/-- The lanes of 40_encode.md R73: symbol j depends on the five bits of quintet j and on no other input bit. -/
def Obligations.EncodeLanesAreIndependent : Prop :=
  ∀ (s t u : State) (v w : ByteQuantum) (j : Lane), exec (.enc v) s = .next t → exec (.enc w) s = .next u →
    v.extractLsb' (35 - 5 * j.val) 5 = w.extractLsb' (35 - 5 * j.val) 5 →
    t.encOut.extractLsb' (56 - 8 * j.val) 8 = u.encOut.extractLsb' (56 - 8 * j.val) 8

/-- The reference algorithm of R72, the source's 64-bit shift loop, gives the same symbols. -/
def Obligations.EncodeMatchesShiftLoop : Prop :=
  ∀ (s : State) (v : ByteQuantum), ∃ t, exec (.enc v) s = .next t ∧
    textSymbols t.encOut = referenceEncode s.alphabet v

/-- Injectivity of ENC (R75), for every alphabet a block can be built with. -/
def Obligations.EncodeIsInjective : Prop :=
  ∀ (s t u : State) (v w : ByteQuantum), s.TablesBuilt →
    exec (.enc v) s = .next t → exec (.enc w) s = .next u → t.encOut = u.encOut → v = w

/-! ### The decode operation (41_decode.md) -/

/-- The pseudocode, the corner cases and the worked example of DEC. The clause `y = 0` on a rejection is the spec's
own choice (41_decode.md "this value is the spec's choice", 92 D5; log entry 7). The texts of the corner cases and of
the example are ASCII codes, which the spec takes from general knowledge (93 G1; PRESUMED, log entry 12). -/
def Obligations.DecodeMapsSymbolsOrRejects : Prop :=
  ∀ (s : State) (x : TextQuantum), ∃ (y : ByteQuantum) (b : BitVec 1),
    exec (.dec x) s = .next { s with decIn := x, decOut := y, decValid := b } ∧
    ((∀ j : Lane, readRlut s.rlut (x.extractLsb' (56 - 8 * j.val) 8) ≠ .invalid) →
      b = 1 ∧ ∀ j : Lane,
        readRlut s.rlut (x.extractLsb' (56 - 8 * j.val) 8) = .valid (y.extractLsb' (35 - 5 * j.val) 5)) ∧
    ((∃ j : Lane, readRlut s.rlut (x.extractLsb' (56 - 8 * j.val) 8) = .invalid) → b = 0 ∧ y = 0) ∧
    (s.rlut = fixedReverseTable →
      (x = 0x3030303030303030 → b = 1 ∧ y = 0) ∧
      (x = 0x7A7A7A7A7A7A7A7A → b = 1 ∧ y = 0xFFFFFFFFFF) ∧
      (x = 0x793367783567786D → b = 1 ∧ y = 0xF0E1D2C3B4))

/-- 41_decode.md R81: a symbol is valid exactly if its entry holds a value, exactly if it is an alphabet byte; an
input is accepted exactly if all eight symbols are. -/
def Obligations.DecodeAcceptsExactlyAlphabetText : Prop :=
  ∀ (s : State) (x : TextQuantum), s.TablesBuilt →
    (∀ c : Byte, (∃ v, readRlut s.rlut c = .valid v) ↔ ∃ i, readAlphabet s.alphabet i = c) ∧
    ∃ t, exec (.dec x) s = .next t ∧ (t.decValid = 1 ↔ AllSymbolsIn s.alphabet x)

/-- The data output on a rejection is zero whatever the symbols were: the spec's own choice (41_decode.md "this value
is the spec's choice", 92 D5; log entry 7). -/
def Obligations.RejectionForcesDataOutputToZero : Prop :=
  ∀ (s t : State) (x : TextQuantum), exec (.dec x) s = .next t → t.decValid = 0 → t.decOut = 0

/-- 41_decode.md R88: DEC writes only `dec_out` and `dec_valid` (the host put `dec_in` there), and these are functions
of `dec_in` and the reverse table alone. The tables, the encoder's ports and what the host will present stay. -/
def Obligations.DecodeFrameAndPurity : Prop :=
  ∀ (x : TextQuantum) (s t : State), exec (.dec x) s = .next t →
    t.alphabet = s.alphabet ∧ t.rlut = s.rlut ∧ t.decIn = x ∧
    t.encIn = s.encIn ∧ t.encOut = s.encOut ∧ t.pending = s.pending ∧
    (∀ s' t' : State, s'.rlut = s.rlut → exec (.dec x) s' = .next t' →
      t'.decOut = t.decOut ∧ t'.decValid = t.decValid)

/-- The reference algorithm of R83, the source's accumulation loop with its short-circuit, gives the same outcome. -/
def Obligations.DecodeMatchesShortCircuitLoop : Prop :=
  ∀ (s : State) (x : TextQuantum), ∃ t, exec (.dec x) s = .next t ∧ t.decResult = referenceDecode s.rlut x

/-- The lanes of R89: in an accepted input the bits `[39-5j : 35-5j]` of `dec_out` depend on symbol j alone. -/
def Obligations.DecodeLanesAreIndependent : Prop :=
  ∀ (s t u : State) (x y : TextQuantum) (j : Lane), exec (.dec x) s = .next t → exec (.dec y) s = .next u →
    t.decValid = 1 → u.decValid = 1 →
    x.extractLsb' (56 - 8 * j.val) 8 = y.extractLsb' (56 - 8 * j.val) 8 →
    t.decOut.extractLsb' (35 - 5 * j.val) 5 = u.decOut.extractLsb' (35 - 5 * j.val) 5

/-- Case sensitivity and no aliasing: a text with, in any position, an uppercase letter, `i`, `l`, `o`, `u`, a hyphen,
a space, NUL or a byte from 0x80 on is rejected. The codes are ASCII (93 G1; log entry 12). -/
def Obligations.DecodeFoldsNoCaseAndAliasesNothing : Prop :=
  ∀ (s : State) (x : TextQuantum) (j : Lane), s.TablesFixed →
    ((0x41 ≤ (symbol x j).toNat ∧ (symbol x j).toNat ≤ 0x5A) ∨
      symbol x j ∈ [(0x69 : Byte), 0x6C, 0x6F, 0x75, 0x2D, 0x20, 0x00] ∨ 0x80 ≤ (symbol x j).toNat) →
    ∃ t, exec (.dec x) s = .next t ∧ t.decValid = 0 ∧ t.decResult = .error .invalidSyntax

/-- 41_decode.md R86: `decode(encode(b)) == Ok(b)` for every byte quantum, for every alphabet a block can be built
with (the fixed one among them). -/
def Obligations.DecodeOfEncodeIsIdentity : Prop :=
  ∀ (s : State) (b : ByteQuantum), s.TablesBuilt →
    ∃ t u, exec (.enc b) s = .next t ∧ exec (.dec t.encOut) t = .next u ∧ u.decResult = .ok b

/-- The inverse round trip of R87: every text that DEC accepts is the text ENC gives for the bytes decoded. -/
def Obligations.EncodeOfAcceptedDecodeIsIdentity : Prop :=
  ∀ (s : State) (x : TextQuantum), s.TablesBuilt →
    ∃ t, exec (.dec x) s = .next t ∧
      ∀ b, t.decResult = .ok b → ∃ u, exec (.enc b) t = .next u ∧ u.encOut = x

/-- The bijection of R7, R75 and R87: every text of alphabet symbols is the encoding of exactly one byte quantum. -/
def Obligations.EncodeIsBijectionOntoAlphabetText : Prop :=
  ∀ (s : State) (x : TextQuantum), s.TablesBuilt →
    (AllSymbolsIn s.alphabet x ↔ ∃ b t, exec (.enc b) s = .next t ∧ t.encOut = x) ∧
    (AllSymbolsIn s.alphabet x → ∃! b, ∃ t, exec (.enc b) s = .next t ∧ t.encOut = x)

/-! ### Errors (60_exceptions.md) -/

/-- 60_exceptions.md R103: no transaction traps; a rejection is a value on `dec_valid` in the transaction of its own
input, and nothing but the decoder's ports is touched by it. -/
def Obligations.RejectionIsNoTrap : Prop :=
  (∀ (i : Instr) (s : State) (f : Fault), exec i s ≠ .fault f) ∧
  ∀ (s : State) (x : TextQuantum), (∃ j : Lane, readRlut s.rlut (symbol x j) = .invalid) →
    ∃ t, exec (.dec x) s = .next t ∧ t.decIn = x ∧ t.decValid = 0 ∧
      t.alphabet = s.alphabet ∧ t.rlut = s.rlut ∧ t.encIn = s.encIn ∧ t.encOut = s.encOut ∧ t.pending = s.pending

/-- Which operations fail (R101): ENC never, DEC exactly for a symbol outside the alphabet. -/
def Obligations.OnlyAlienSymbolsFail : Prop :=
  ∀ s : State, s.TablesBuilt →
    (∀ v, ∃ t, exec (.enc v) s = .next t ∧ t.decResult = s.decResult) ∧
    (∀ x, ∃ t, exec (.dec x) s = .next t ∧
      (t.decResult = .error .invalidSyntax ↔ ∃ j : Lane, ∀ i, readAlphabet s.alphabet i ≠ symbol x j))

/-- The one outcome of R106, said of inputs that `dec_valid` reports as rejected (which inputs those are is
DecodeAcceptsExactlyAlphabetText's): the resulting states differ in the input port alone, so neither position nor number
of the invalid symbols shows, and the encoder raises nothing. That `dec_out` is equal in both holds whatever the one
value is that D5 chooses for a rejection (log entry 7). -/
def Obligations.AllRejectionsLookAlike : Prop :=
  (∀ (s t u : State) (x y : TextQuantum), exec (.dec x) s = .next t → exec (.dec y) s = .next u →
    t.decValid = 0 → u.decValid = 0 →
    t.decResult = .error .invalidSyntax ∧ u.decResult = .error .invalidSyntax ∧ u = { t with decIn := y }) ∧
  (∀ (s t : State) (v : ByteQuantum), exec (.enc v) s = .next t → t.decResult = s.decResult)

/-! ### The tables (10_state.md) -/

/-- The alphabet string of R21 is what the forward table holds; the codes are ASCII (93 G1; log entry 12). -/
def Obligations.AlphabetTableSpellsTheString : Prop :=
  fixedAlphabet.toList.map BitVec.toNat = "0123456789abcdefghjkmnpqrstvwxyz".toList.map Char.toNat

/-- The invariants of R23: distinct, printable, digits at 0 to 9, letters in alphabetical order at 10 to 31, exactly
`i`, `l`, `o`, `u` of the lowercase letters left out. The codes are ASCII (93 G1; log entry 12). -/
def Obligations.AlphabetIsDistinctOrderedLowercase : Prop :=
  (∀ i k : Quintet, i.toNat < k.toNat → (readAlphabet fixedAlphabet i).toNat < (readAlphabet fixedAlphabet k).toNat) ∧
  (∀ i : Quintet, i.toNat ≤ 9 → (readAlphabet fixedAlphabet i).toNat = 0x30 + i.toNat) ∧
  (∀ i : Quintet, 10 ≤ i.toNat → 0x61 ≤ (readAlphabet fixedAlphabet i).toNat ∧
    (readAlphabet fixedAlphabet i).toNat ≤ 0x7A) ∧
  (∀ c : Byte, 0x61 ≤ c.toNat → c.toNat ≤ 0x7A →
    ((∀ i, readAlphabet fixedAlphabet i ≠ c) ↔ c ∈ [(0x69 : Byte), 0x6C, 0x6F, 0x75]))

/-- The `Invalid` entries of the grid of R24 are exactly the 224 byte values of R65. The codes are ASCII (93 G1; log entry 12). -/
def Obligations.InvalidEntriesAreTheListedRanges : Prop :=
  ∀ c : Byte, readRlut fixedReverseTable c = .invalid ↔
    c.toNat ≤ 0x2F ∨ (0x3A ≤ c.toNat ∧ c.toNat ≤ 0x60) ∨ c ∈ [(0x69 : Byte), 0x6C, 0x6F, 0x75] ∨ 0x7B ≤ c.toNat

/-- The construction of R25 from the fixed alphabet yields the grid of R24, and elaboration the block at power-up
(whose input ports and empty list of transactions are the model's choice: log entries 2 and 3). -/
def Obligations.FixedAlphabetElaborates : Prop :=
  construct fixedAlphabet = some fixedReverseTable ∧ elaborate fixedAlphabet = .next State.reset

/-- The construction check of R26: for every candidate alphabet, the construction fails exactly if two indices have one
symbol, and for the fixed alphabet it passes. That elaboration then answers the refusal `duplicateSymbol`, where R26
says that no such block exists, is the model's form (93 U4; DEDUCED, log entry 6). -/
def Obligations.ConstructionFailsExactlyOnDuplicate : Prop :=
  (∀ a : ForwardTable,
    (construct a = none ↔ ∃ i k, i ≠ k ∧ readAlphabet a i = readAlphabet a k) ∧
    (elaborate a = .refused .duplicateSymbol ↔ ∃ i k, i ≠ k ∧ readAlphabet a i = readAlphabet a k)) ∧
  (construct fixedAlphabet).isSome = true

/-- 10_state.md R27: the constructed table maps every alphabet byte to its index and every other byte to the
sentinel; the two tables are inverse bijections between the indices and the alphabet bytes. -/
def Obligations.ConstructedTableInvertsAlphabet : Prop :=
  ∀ (a : ForwardTable) (r : ReverseTable), construct a = some r →
    (∀ i, readRlut r (readAlphabet a i) = .valid i) ∧
    (∀ c, (∀ i, readAlphabet a i ≠ c) → readRlut r c = .invalid) ∧
    (∀ c i, readRlut r c = .valid i → readAlphabet a i = c) ∧
    (∀ i k, readAlphabet a i = readAlphabet a k → i = k)

/-- The six bits of an entry (R28): `Valid(v)` is `{1, v}`, `Invalid` is zero, and no two entries share their bits. -/
def Obligations.EntryBitsKeepSentinelApart : Prop :=
  (∀ v : Quintet, (entryBits (.valid v)).extractLsb' 5 1 = 1 ∧ (entryBits (.valid v)).extractLsb' 0 5 = v) ∧
  entryBits .invalid = 0 ∧ (∀ e f : Entry, entryBits e = entryBits f → e = f)

/-! ### The formats (20_memory.md, 30_encoding.md) -/

/-- 20_memory.md R40: B0 is the most significant byte of `enc_in` and of `dec_out`, S0 carries bits 39 to 35, and
`[0,0,0,0,1]` encodes to `"00000001"`. The codes of that text are ASCII, which the spec takes from general knowledge
(93 G1; PRESUMED, log entry 12). -/
def Obligations.QuantaAreBigEndian : Prop :=
  (∀ b0 b1 b2 b3 b4 : Byte, ∃ v, decodeBytes 0 [b0, b1, b2, b3, b4] = .ok (.enc v) ∧
    v.toNat = b0.toNat * 2 ^ 32 + b1.toNat * 2 ^ 24 + b2.toNat * 2 ^ 16 + b3.toNat * 2 ^ 8 + b4.toNat) ∧
  (∀ v : ByteQuantum, v.toNat = (quantumByte v 0).toNat * 2 ^ 32 + (quantumByte v 1).toNat * 2 ^ 24 +
    (quantumByte v 2).toNat * 2 ^ 16 + (quantumByte v 3).toNat * 2 ^ 8 + (quantumByte v 4).toNat) ∧
  (∀ s : State, s.alphabet = fixedAlphabet → ∃ i t, decodeBytes 0 [0, 0, 0, 0, 1] = .ok i ∧ exec i s = .next t ∧
    textSymbols t.encOut = [0x30, 0x30, 0x30, 0x30, 0x30, 0x30, 0x30, 0x31]) ∧
  (∀ (s : State) (v : ByteQuantum), ∃ t, exec (.enc v) s = .next t ∧
    t.encOut.extractLsb' 56 8 = readAlphabet s.alphabet (v.extractLsb' 35 5)) ∧
  (∀ (s t : State) (x : TextQuantum), exec (.dec x) s = .next t → t.decValid = 1 →
    readRlut s.rlut (x.extractLsb' 56 8) = .valid (t.decOut.extractLsb' 35 5))

/-- 30_encoding.md R57: the five bytes of ENC-IN are the fields of `enc_in`, and every value of `enc_in` is legal. -/
def Obligations.EncoderInputFields : Prop :=
  (∀ b0 b1 b2 b3 b4 : Byte, ∃ v, decodeBytes 0 [b0, b1, b2, b3, b4] = .ok (.enc v) ∧
    v.extractLsb' 32 8 = b0 ∧ v.extractLsb' 24 8 = b1 ∧ v.extractLsb' 16 8 = b2 ∧ v.extractLsb' 8 8 = b3 ∧
    v.extractLsb' 0 8 = b4) ∧
  (∀ (v : ByteQuantum) (s : State), ∃ t, exec (.enc v) s = .next t)

/-- 30_encoding.md R59: the eight bytes of DEC-IN are the fields of `dec_in`, and every value of `dec_in` is legal:
it is accepted or rejected. -/
def Obligations.DecoderInputFields : Prop :=
  (∀ s0 s1 s2 s3 s4 s5 s6 s7 : Byte, ∃ x, decodeBytes 1 [s0, s1, s2, s3, s4, s5, s6, s7] = .ok (.dec x) ∧
    x.extractLsb' 56 8 = s0 ∧ x.extractLsb' 48 8 = s1 ∧ x.extractLsb' 40 8 = s2 ∧ x.extractLsb' 32 8 = s3 ∧
    x.extractLsb' 24 8 = s4 ∧ x.extractLsb' 16 8 = s5 ∧ x.extractLsb' 8 8 = s6 ∧ x.extractLsb' 0 8 = s7) ∧
  (∀ (x : TextQuantum) (s : State), ∃ t, exec (.dec x) s = .next t ∧
    ((t.decValid = 1 ∧ t.decResult = .ok t.decOut) ∨ (t.decValid = 0 ∧ t.decResult = .error .invalidSyntax)))

/-- The quintets in terms of the bytes (R61's table); quintets 1, 3, 4 and 6 straddle a byte boundary (90 C5). -/
def Obligations.QuintetsInTermsOfBytes : Prop :=
  ∀ (v : ByteQuantum) (b : Fin 5 → Byte), (∀ k : Fin 5, b k = v.extractLsb' (32 - 8 * k.val) 8) →
    quintet v 0 = (b 0).extractLsb' 3 5 ∧
    quintet v 1 = (b 0).extractLsb' 0 3 ++ (b 1).extractLsb' 6 2 ∧
    quintet v 2 = (b 1).extractLsb' 1 5 ∧
    quintet v 3 = (b 1).extractLsb' 0 1 ++ (b 2).extractLsb' 4 4 ∧
    quintet v 4 = (b 2).extractLsb' 0 4 ++ (b 3).extractLsb' 7 1 ∧
    quintet v 5 = (b 3).extractLsb' 2 5 ∧
    quintet v 6 = (b 3).extractLsb' 0 2 ++ (b 4).extractLsb' 5 3 ∧
    quintet v 7 = (b 4).extractLsb' 0 5

/-- Every transaction is read back from its frame: no bit of `op` or of the quantum is dropped. -/
def Obligations.DecodeOfEncodedFrame : Prop :=
  ∀ i : Instr, decode (encode i) = .ok i

/-- Each transaction has one frame: whatever decodes is the encoding of what it decodes to. -/
def Obligations.FrameOfTransactionIsUnique : Prop :=
  ∀ (d : Drive) (i : Instr), decode d = .ok i → encode i = d

/-- A frame decodes exactly if it is as wide as its port and every bit is defined; op 0 is an ENC, op 1 a DEC
(R62, R66, R68; the width and the undefined bits: log entries 4 and 5). -/
def Obligations.DecoderTotalOnWellFormedFrames : Prop :=
  ∀ d : Drive,
    (d.wellFormed = true ↔ ∃ i, decode d = .ok i) ∧
    (d.wellFormed = true → d.op = 0 → ∃ v, decode d = .ok (.enc v)) ∧
    (d.wellFormed = true → d.op = 1 → ∃ x, decode d = .ok (.dec x))

/-- Frames written out from 95_test_vectors.md (V-SRC-6, V-ENC-8, V-DEC-4). The last two clauses, the opcode table's
two rows with operand bytes of zeros, rest on the model's own layout of a table word: `op` in bit 0, bits 7..1 silent,
the port's bytes from bit 8 up (DESIGN CHOICE, log entry 10). -/
def Obligations.WrittenFramesDecode : Prop :=
  decodeBytes 0 [0xF0, 0xE1, 0xD2, 0xC3, 0xB4] = .ok (.enc 0xF0E1D2C3B4) ∧
  decodeBytes 0 [0x01, 0x23, 0x45, 0x67, 0x89] = .ok (.enc 0x0123456789) ∧
  decodeBytes 1 [0x79, 0x33, 0x67, 0x78, 0x35, 0x67, 0x78, 0x6D] = .ok (.dec 0x793367783567786D) ∧
  decodeBytes 1 [0x61, 0x62, 0x63, 0x64, 0x65, 0x66, 0x67, 0x68] = .ok (.dec 0x6162636465666768) ∧
  decodeTableWord 8 0 = some (.enc 0) ∧ decodeTableWord 8 1 = some (.dec 0)

/-! ### The whole machine (10_state.md, 20_memory.md, 60_exceptions.md, 70_reset_and_hazards.md) -/

/-- 20_memory.md R48: repeating a transaction with the same input gives the same outputs, and writes no table. -/
def Obligations.RepeatedTransactionChangesNothing : Prop :=
  ∀ (i : Instr) (s t : State), exec i s = .next t →
    t.alphabet = s.alphabet ∧ t.rlut = s.rlut ∧ exec i t = .next t

/-- The units are independent (R34): an ENC and a DEC give the same state in either order. -/
def Obligations.UnitsCommute : Prop :=
  ∀ (s : State) (v : ByteQuantum) (x : TextQuantum), ∃ t u w,
    exec (.enc v) s = .next t ∧ exec (.dec x) t = .next w ∧
    exec (.dec x) s = .next u ∧ exec (.enc v) u = .next w

/-- A step presents the oldest frame: if it decodes, the step is its transaction, with that frame taken from the
list (the list is the model's own: log entry 3). -/
def Obligations.StepRunsDecodedTransaction : Prop :=
  ∀ (s : State) (d : Drive) (ds : List Drive) (i : Instr), s.pending = d :: ds → decode d = .ok i →
    step s = exec i { s with pending := ds }

/-- With nothing pending the host holds its inputs and every output keeps its value (R56; log entry 3). -/
def Obligations.HeldInputKeepsOutputs : Prop :=
  ∀ s : State, s.pending = [] → step s = .next s

/-- An input with a bit that is not a defined 0 or 1 is refused (R127, the spec's decision D19; log entry 4). -/
def Obligations.UndefinedInputIsRefused : Prop :=
  ∀ (s : State) (d : Drive) (ds : List Drive), s.pending = d :: ds → (∃ b ∈ d.port, b.undef ≠ 0) →
    step s = .refused .undefinedInput

/-- A frame of defined bits that is not as wide as the port is refused: no such quantum can be presented (R46, R55;
the refusal is the model's choice: log entry 5). -/
def Obligations.MisfitFrameIsRefused : Prop :=
  ∀ (s : State) (d : Drive) (ds : List Drive), s.pending = d :: ds → (∀ b ∈ d.port, b.undef = 0) →
    d.port.length ≠ (if d.op = 0 then 5 else 8) → step s = .refused .portWidth

/-- The block after power-up: constant tables (R33), and outputs that are the functions of the inputs (R121). The
inputs' values there are the model's choice (log entry 2); no clause names them. -/
def Obligations.InvariantHoldsAtReset : Prop := State.reset.Inv

/-- Every step keeps the tables at their constant contents (R31, R33) and every output the function of its present
input (R121). -/
def Obligations.StepKeepsTablesAndSettledPorts : Prop :=
  ∀ s t : State, s.Inv → step s = .next t → t.Inv

/-- If the host presents nothing but frames the spec gives a meaning, no number of steps faults or is refused
(R68, R101, R103; the list of frames: log entry 3). -/
def Obligations.WellFormedInputsNeverStop : Prop :=
  ∀ (k : Nat) (s : State), s.PendingWellFormed → ∃ t, Host.Core.run core k s = .next t

/-- A transaction's outcome does not depend on what ran before it (R49, R126): after any number of steps it gives the
outputs it gives at once (the steps take what is pending: log entry 3). -/
def Obligations.OutcomeIndependentOfHistory : Prop :=
  ∀ (k : Nat) (s t : State), Host.Core.run core k s = .next t →
    (∀ v : ByteQuantum, ∃ p q, exec (.enc v) s = .next p ∧ exec (.enc v) t = .next q ∧ q.encOut = p.encOut) ∧
    (∀ x : TextQuantum, ∃ p q, exec (.dec x) s = .next p ∧ exec (.dec x) t = .next q ∧
      q.decOut = p.decOut ∧ q.decValid = p.decValid)

/-! ### The wrapper's composite forms (00_scope.md R14 to R16, 30_encoding.md R64) -/

/-- FMT10 and PARSE10 expand to two block transactions each, with the wrapper's separator and checks (R64). That the
second DEC is issued after a rejected first one is the model's choice (log entry 8). The hyphen's code 0x2D is ASCII,
which the spec takes from general knowledge (93 G1; PRESUMED, log entry 12). -/
def Obligations.CompositeFormsExpandToTransactions : Prop :=
  (∀ (b c : ByteQuantum) (s : State), ∃ t u, exec (.enc b) s = .next t ∧ exec (.enc c) t = .next u ∧
    formatLarge b c s = .next (textSymbols t.encOut ++ [0x2D] ++ textSymbols u.encOut, u)) ∧
  (∀ (text : List Byte) (s : State), ¬ (text.length = 17 ∧ text[8]? = some 0x2D) →
    parseLarge text s = .next (.error .invalidSyntax, s)) ∧
  (∀ (x y : TextQuantum) (s : State), ∃ t u r, exec (.dec x) s = .next t ∧ exec (.dec y) t = .next u ∧
    parseLarge (textSymbols x ++ [0x2D] ++ textSymbols y) s = .next (r, u) ∧
    (∀ b c, t.decResult = .ok b → u.decResult = .ok c → r = .ok (.large b c)) ∧
    (t.decResult = .error .invalidSyntax ∨ u.decResult = .error .invalidSyntax → r = .error .invalidSyntax))

/-- Formatting an identifier and parsing the text gives the identifier back (R64, R86; 95 V-PROP-1). -/
def Obligations.ParseOfFormatIsIdentity : Prop :=
  ∀ (i : Identifier) (s : State), s.TablesBuilt → ∃ text t u,
    formatIdentifier i s = .next (text, t) ∧ parseIdentifier text t = .next (.ok i, u)

/-- Every text that parses is the text its identifier formats to (R87; 95 V-PROP-2). -/
def Obligations.FormatOfParseIsIdentity : Prop :=
  ∀ (text : List Byte) (i : Identifier) (s t : State), s.TablesBuilt → parseIdentifier text s = .next (.ok i, t) →
    ∃ u, formatIdentifier i t = .next (text, u)
end

