-- ==== Sys2Proof/Laws/Operands.lean ====
section
/-! SUPPORT. The fields of a packed quantum are what was packed, and a quantum is its fields (20_memory.md R41, R42;
30_encoding.md R61). -/

namespace Sys2Proof.Machine

/-- The eight positions, to split a claim about a lane. -/
theorem forall_lane {p : Lane → Prop} :
    (∀ j, p j) ↔ p 0 ∧ p 1 ∧ p 2 ∧ p 3 ∧ p 4 ∧ p 5 ∧ p 6 ∧ p 7 := by
  constructor
  · intro h; exact ⟨h 0, h 1, h 2, h 3, h 4, h 5, h 6, h 7⟩
  · rintro ⟨h0, h1, h2, h3, h4, h5, h6, h7⟩ j
    match j with
    | 0 => exact h0 | 1 => exact h1 | 2 => exact h2 | 3 => exact h3
    | 4 => exact h4 | 5 => exact h5 | 6 => exact h6 | 7 => exact h7

theorem quintet_packQuintets (q : Lane → Quintet) (j : Lane) : quintet (packQuintets q) j = q j := by
  revert j
  rw [forall_lane]
  refine ⟨?_, ?_, ?_, ?_, ?_, ?_, ?_, ?_⟩ <;>
  · apply BitVec.eq_of_getLsbD_eq
    intro i hi
    simp only [quintet, packQuintets, BitVec.getLsbD_extractLsb', BitVec.getLsbD_append]
    interval_cases i <;> simp

theorem symbol_packText (c : Lane → Byte) (j : Lane) : symbol (packText c) j = c j := by
  revert j
  rw [forall_lane]
  refine ⟨?_, ?_, ?_, ?_, ?_, ?_, ?_, ?_⟩ <;>
  · apply BitVec.eq_of_getLsbD_eq
    intro i hi
    simp only [symbol, packText, BitVec.getLsbD_extractLsb', BitVec.getLsbD_append]
    interval_cases i <;> simp

theorem packQuintets_quintet (v : ByteQuantum) : packQuintets (quintet v) = v := by
  apply BitVec.eq_of_getLsbD_eq
  intro i hi
  simp only [quintet, packQuintets, BitVec.getLsbD_extractLsb', BitVec.getLsbD_append]
  interval_cases i <;> simp

theorem packText_symbol (t : TextQuantum) : packText (symbol t) = t := by
  apply BitVec.eq_of_getLsbD_eq
  intro i hi
  simp only [symbol, packText, BitVec.getLsbD_extractLsb', BitVec.getLsbD_append]
  interval_cases i <;> simp

/-- A text quantum is eight symbols. -/
@[simp] theorem length_textSymbols (t : TextQuantum) : (textSymbols t).length = 8 := rfl

/-- A byte quantum is five bytes. -/
@[simp] theorem length_quantumBytes (v : ByteQuantum) : (quantumBytes v).length = 5 := rfl

/-- A byte quantum is determined by its quintets. -/
theorem eq_of_quintets {v w : ByteQuantum} (h : ∀ j, quintet v j = quintet w j) : v = w := by
  rw [← packQuintets_quintet v, ← packQuintets_quintet w, funext h]

/-- A text quantum is determined by its symbols. -/
theorem eq_of_symbols {t u : TextQuantum} (h : ∀ j, symbol t j = symbol u j) : t = u := by
  rw [← packText_symbol t, ← packText_symbol u, funext h]

/-- The bytes of a packed byte quantum are the bytes packed. -/
theorem quantumBytes_packBytes (b0 b1 b2 b3 b4 : Byte) :
    quantumBytes (packBytes b0 b1 b2 b3 b4) = [b0, b1, b2, b3, b4] := by
  simp only [quantumBytes, List.cons.injEq, and_true]
  refine ⟨?_, ?_, ?_, ?_, ?_⟩ <;>
  · apply BitVec.eq_of_getLsbD_eq
    intro i hi
    simp only [quantumByte, packBytes, BitVec.getLsbD_extractLsb', BitVec.getLsbD_append]
    interval_cases i <;> simp

/-- The byte quantum of its own bytes is itself. -/
theorem quantumOfBytes_quantumBytes (v : ByteQuantum) : quantumOfBytes (quantumBytes v) = some v := by
  simp only [quantumOfBytes, quantumBytes, Option.some.injEq]
  apply BitVec.eq_of_getLsbD_eq
  intro i hi
  simp only [quantumByte, packBytes, BitVec.getLsbD_extractLsb', BitVec.getLsbD_append]
  interval_cases i <;> simp

/-- The text quantum of its own symbols is itself. -/
theorem textOfBytes_textSymbols (t : TextQuantum) : textOfBytes (textSymbols t) = some t :=
  congrArg some (packText_symbol t)

/-- What the bytes of a byte quantum can be: exactly five, its own. -/
theorem quantumOfBytes_eq_some {bs : List Byte} {v : ByteQuantum} (h : quantumOfBytes bs = some v) :
    bs = quantumBytes v := by
  unfold quantumOfBytes at h
  split at h
  · rw [← Option.some.inj h, quantumBytes_packBytes]
  · simp at h

/-- What the bytes of a text quantum can be: exactly eight, its symbols. -/
theorem textOfBytes_eq_some {bs : List Byte} {t : TextQuantum} (h : textOfBytes bs = some t) :
    bs = textSymbols t := by
  unfold textOfBytes at h
  split at h
  · rename_i s0 s1 s2 s3 s4 s5 s6 s7
    have hs := symbol_packText (fun j : Lane => [s0, s1, s2, s3, s4, s5, s6, s7][j])
    rw [← Option.some.inj h]
    simp only [textSymbols, List.cons.injEq, and_true]
    exact ⟨(hs 0).symm, (hs 1).symm, (hs 2).symm, (hs 3).symm, (hs 4).symm, (hs 5).symm, (hs 6).symm, (hs 7).symm⟩
  · simp at h

/-- Five bytes, and no other number of bytes, are a byte quantum (20_memory.md R46). -/
theorem quantumOfBytes_isSome (bs : List Byte) : (quantumOfBytes bs).isSome = (bs.length == 5) := by
  match bs with
  | [] | [_] | [_, _] | [_, _, _] | [_, _, _, _] | [_, _, _, _, _] => rfl
  | _ :: _ :: _ :: _ :: _ :: _ :: _ => simp [quantumOfBytes]

/-- Eight bytes, and no other number of bytes, are a text quantum (20_memory.md R46). -/
theorem textOfBytes_isSome (bs : List Byte) : (textOfBytes bs).isSome = (bs.length == 8) := by
  match bs with
  | [] | [_] | [_, _] | [_, _, _] | [_, _, _, _] | [_, _, _, _, _] | [_, _, _, _, _, _] | [_, _, _, _, _, _, _]
  | [_, _, _, _, _, _, _, _] => rfl
  | _ :: _ :: _ :: _ :: _ :: _ :: _ :: _ :: _ :: _ => simp [textOfBytes]

end Sys2Proof.Machine
end

