-- ==== Sys2Proof/Laws/Ops.lean ====
section
/-! SUPPORT. What the two units' functions can give: a symbol of the encoder's output, and the two cases of the
decoder's outputs (40_encode.md R70, 41_decode.md R80). -/

namespace Sys2Proof.Machine

/-- Symbol j of the encoder's output is lane j (40_encode.md R70). -/
@[simp] theorem symbol_encodeQuantum (a : ForwardTable) (v : ByteQuantum) (j : Lane) :
    symbol (encodeQuantum a v) j = readAlphabet a (quintet v j) :=
  symbol_packText _ _

/-- A validity bit is 1 exactly for an entry that holds a value (10_state.md R28). -/
theorem entryOk_eq_one {e : Entry} : entryOk e = 1 ↔ ∃ v, e = .valid v := by
  cases e <;> simp [entryOk]

/-- The AND of two bits. -/
theorem and_eq_one {x y : BitVec 1} : x &&& y = 1 ↔ x = 1 ∧ y = 1 := by
  revert x y; decide

/-- `dec_valid` is 1 exactly if every lane is valid (41_decode.md R81, R84). -/
theorem lanesValid_eq_one {r : Lane → Entry} : lanesValid r = 1 ↔ ∀ j, ∃ v, r j = .valid v := by
  simp only [lanesValid, and_eq_one, entryOk_eq_one, forall_lane, and_assoc]

/-- All the decoder can do: accept, each lane's value in its place, or reject (41_decode.md R80). -/
theorem decodeQuantum_cases (r : ReverseTable) (t : TextQuantum) :
    ((∀ j, decLane r t j = .valid (quintet (decodeQuantum r t).out j)) ∧ (decodeQuantum r t).valid = 1) ∨
    ((∃ j, decLane r t j = .invalid) ∧ decodeQuantum r t = rejected) := by
  by_cases h : lanesValid (decLane r t) = 1
  · refine .inl ⟨fun j => ?_, by simp [decodeQuantum, h, accepted]⟩
    obtain ⟨v, hv⟩ := lanesValid_eq_one.mp h j
    simp [decodeQuantum, h, accepted, quintet_packQuintets, hv, entryValue]
  · refine .inr ⟨?_, if_neg h⟩
    rw [lanesValid_eq_one] at h
    push Not at h
    obtain ⟨j, hj⟩ := h
    exact ⟨j, by cases hd : decLane r t j with
      | invalid => rfl
      | valid v => exact absurd hd (hj v)⟩

/-- The outcome of accepted outputs (30_encoding.md R60). -/
@[simp] theorem outcomeOf_one (v : ByteQuantum) : outcomeOf { valid := 1, out := v } = .ok v := rfl

/-- The outcome of rejected outputs (60_exceptions.md R100). -/
@[simp] theorem outcomeOf_rejected : outcomeOf rejected = .error .invalidSyntax := rfl

end Sys2Proof.Machine
end

