-- ==== Sys2Proof/Laws/PerInstr.lean ====
section
/-! SUPPORT. One family of statements about a transaction as syntax, one lemma per constructor of Instr. -/

namespace Sys2Proof.Laws.EncodesWellFormed

/-- The frame of the transaction is one the spec gives a meaning (30_encoding.md R57, R59). -/
def Statement (i : Instr) : Prop := (encode i).wellFormed = true

theorem enc (v : ByteQuantum) : Statement (.enc v) := rfl

theorem dec (t : TextQuantum) : Statement (.dec t) := rfl

end Sys2Proof.Laws.EncodesWellFormed
end

