-- ==== Sys2Proof/Laws/State.lean ====
section
/-! SUPPORT. Every field after every update of the state. -/

namespace Sys2Proof.Machine

variable (s : State)

@[simp] theorem State.presentEnc_alphabet (v : ByteQuantum) : (s.presentEnc v).alphabet = s.alphabet := rfl
@[simp] theorem State.presentEnc_rlut (v : ByteQuantum) : (s.presentEnc v).rlut = s.rlut := rfl
@[simp] theorem State.presentEnc_encIn (v : ByteQuantum) : (s.presentEnc v).encIn = v := rfl
@[simp] theorem State.presentEnc_encOut (v : ByteQuantum) : (s.presentEnc v).encOut = encodeQuantum s.alphabet v := rfl
@[simp] theorem State.presentEnc_decIn (v : ByteQuantum) : (s.presentEnc v).decIn = s.decIn := rfl
@[simp] theorem State.presentEnc_decOut (v : ByteQuantum) : (s.presentEnc v).decOut = s.decOut := rfl
@[simp] theorem State.presentEnc_decValid (v : ByteQuantum) : (s.presentEnc v).decValid = s.decValid := rfl
@[simp] theorem State.presentEnc_pending (v : ByteQuantum) : (s.presentEnc v).pending = s.pending := rfl

@[simp] theorem State.presentDec_alphabet (t : TextQuantum) : (s.presentDec t).alphabet = s.alphabet := rfl
@[simp] theorem State.presentDec_rlut (t : TextQuantum) : (s.presentDec t).rlut = s.rlut := rfl
@[simp] theorem State.presentDec_encIn (t : TextQuantum) : (s.presentDec t).encIn = s.encIn := rfl
@[simp] theorem State.presentDec_encOut (t : TextQuantum) : (s.presentDec t).encOut = s.encOut := rfl
@[simp] theorem State.presentDec_decIn (t : TextQuantum) : (s.presentDec t).decIn = t := rfl
@[simp] theorem State.presentDec_decOut (t : TextQuantum) : (s.presentDec t).decOut = (decodeQuantum s.rlut t).out := rfl
@[simp] theorem State.presentDec_decValid (t : TextQuantum) : (s.presentDec t).decValid = (decodeQuantum s.rlut t).valid := rfl
@[simp] theorem State.presentDec_pending (t : TextQuantum) : (s.presentDec t).pending = s.pending := rfl

@[simp] theorem State.withPending_alphabet (ds : List Drive) : (s.withPending ds).alphabet = s.alphabet := rfl
@[simp] theorem State.withPending_rlut (ds : List Drive) : (s.withPending ds).rlut = s.rlut := rfl
@[simp] theorem State.withPending_encIn (ds : List Drive) : (s.withPending ds).encIn = s.encIn := rfl
@[simp] theorem State.withPending_encOut (ds : List Drive) : (s.withPending ds).encOut = s.encOut := rfl
@[simp] theorem State.withPending_decIn (ds : List Drive) : (s.withPending ds).decIn = s.decIn := rfl
@[simp] theorem State.withPending_decOut (ds : List Drive) : (s.withPending ds).decOut = s.decOut := rfl
@[simp] theorem State.withPending_decValid (ds : List Drive) : (s.withPending ds).decValid = s.decValid := rfl
@[simp] theorem State.withPending_pending (ds : List Drive) : (s.withPending ds).pending = ds := rfl

section powerUp

variable (a : ForwardTable) (r : ReverseTable)

@[simp] theorem State.powerUp_alphabet : (State.powerUp a r).alphabet = a := rfl
@[simp] theorem State.powerUp_rlut : (State.powerUp a r).rlut = r := rfl
@[simp] theorem State.powerUp_encIn : (State.powerUp a r).encIn = 0 := rfl
@[simp] theorem State.powerUp_encOut : (State.powerUp a r).encOut = encodeQuantum a 0 := rfl
@[simp] theorem State.powerUp_decIn : (State.powerUp a r).decIn = 0 := rfl
@[simp] theorem State.powerUp_decOut : (State.powerUp a r).decOut = (decodeQuantum r 0).out := rfl
@[simp] theorem State.powerUp_decValid : (State.powerUp a r).decValid = (decodeQuantum r 0).valid := rfl
@[simp] theorem State.powerUp_pending : (State.powerUp a r).pending = [] := rfl

end powerUp

end Sys2Proof.Machine
end

