-- ==== Sys2Proof/Laws/Step.lean ====
section
/-! SUPPORT. Each meaning as an equation, and all that one step can do. -/

namespace Sys2Proof.Machine

@[simp] theorem exec_enc (v : ByteQuantum) (s : State) : exec (.enc v) s = .next (s.presentEnc v) := rfl

@[simp] theorem exec_dec (t : TextQuantum) (s : State) : exec (.dec t) s = .next (s.presentDec t) := rfl

/-- A step that answers a next state is idle, or it ran one ENC, or it ran one DEC. -/
theorem step_cases {s t : State} (h : step s = .next t) :
    (s.pending = [] ∧ t = s) ∨
    (∃ d ds v, s.pending = d :: ds ∧ decode d = .ok (.enc v) ∧ t = (s.withPending ds).presentEnc v) ∨
    (∃ d ds x, s.pending = d :: ds ∧ decode d = .ok (.dec x) ∧ t = (s.withPending ds).presentDec x) := by
  unfold step at h
  split at h
  · rename_i hp
    exact .inl ⟨hp, by simpa using h.symm⟩
  · rename_i d ds hp
    split at h
    · rename_i i hd
      cases i with
      | enc v => exact .inr (.inl ⟨d, ds, v, hp, hd, by simpa using h.symm⟩)
      | dec x => exact .inr (.inr ⟨d, ds, x, hp, hd, by simpa using h.symm⟩)
    · simp at h

/-- Presenting a quantum to the encoder leaves the ports settled (70_reset_and_hazards.md R121). -/
theorem Settled.presentEnc {s : State} (h : s.Settled) (v : ByteQuantum) : (s.presentEnc v).Settled :=
  ⟨rfl, h.2⟩

/-- Presenting a quantum to the decoder leaves the ports settled (70_reset_and_hazards.md R121). -/
theorem Settled.presentDec {s : State} (h : s.Settled) (t : TextQuantum) : (s.presentDec t).Settled :=
  ⟨h.1, rfl, rfl⟩

/-- A run of k + 1 steps whose first step answers a next state goes on from there. -/
theorem run_succ_of_step {s t : State} (h : step s = .next t) (k : Nat) :
    Host.Core.run core (k + 1) s = Host.Core.run core k t := by
  have h' : core.step s = .next t := h
  simp only [Host.Core.run, h']

/-- A run of k + 1 steps that answers a next state took a first step to a next state. -/
theorem step_of_run_succ {s u : State} {k : Nat} (h : Host.Core.run core (k + 1) s = .next u) :
    ∃ t, step s = .next t ∧ Host.Core.run core k t = .next u := by
  cases hs : step s with
  | next t => exact ⟨t, rfl, (run_succ_of_step hs k).symm.trans h⟩
  | fault e => cases e
  | refused e =>
    have hs' : core.step s = .refused e := hs
    simp [Host.Core.run, hs'] at h

end Sys2Proof.Machine
end

