-- ==== Sys2Proof/Laws/Tables.lean ====
section
/-! SUPPORT. What a table read gives, and what one write of the construction can do (10_state.md R25). -/

namespace Sys2Proof.Machine

/-- Before the first write every cell holds the sentinel (10_state.md R25). -/
@[simp] theorem readRlut_blankTable (c : Byte) : readRlut blankTable c = .invalid := by
  simp [readRlut, blankTable]

/-- A write succeeds exactly on a cell that holds the sentinel (10_state.md R26). -/
theorem writeCell_isSome (r : ReverseTable) (c : Byte) (i : Quintet) :
    (writeCell r c i).isSome ↔ readRlut r c = .invalid := by
  unfold writeCell
  split <;> simp_all

/-- A write that succeeds changes the cell it names and no other (10_state.md R25). -/
theorem readRlut_writeCell {r r' : ReverseTable} {c : Byte} {i : Quintet} (h : writeCell r c i = some r') (d : Byte) :
    readRlut r' d = if d = c then .valid i else readRlut r d := by
  unfold writeCell at h
  split at h
  · rw [← Option.some.inj h]
    simp only [readRlut, Vector.getElem_set, eq_comm (a := c.toNat), BitVec.toNat_inj]
  · simp at h

/-- One turn of the construction's loop (10_state.md R25). -/
theorem constructFrom_cons_eq_some {c : Byte} {cs : List Byte} {i : Nat} {r r' : ReverseTable} :
    constructFrom (c :: cs) i r = some r' ↔
      ∃ m, writeCell r c (BitVec.ofNat 5 i) = some m ∧ constructFrom cs (i + 1) m = some r' := by
  simp [constructFrom, Option.bind_eq_some_iff]

/-- Everything the construction's loop can do when it succeeds: the symbols were distinct and their cells unwritten,
each of their cells holds its index now, and no other cell has changed (10_state.md R25, R27). -/
theorem constructFrom_spec {cs : List Byte} {n : Nat} {r r' : ReverseTable} (h : constructFrom cs n r = some r') :
    cs.Nodup ∧ (∀ c ∈ cs, readRlut r c = .invalid) ∧ (∀ c, c ∉ cs → readRlut r' c = readRlut r c) ∧
    (∀ k (hk : k < cs.length), readRlut r' cs[k] = .valid (BitVec.ofNat 5 (n + k))) := by
  induction cs generalizing n r with
  | nil => simp_all [constructFrom]
  | cons c cs ih =>
    obtain ⟨m, hm, hr⟩ := constructFrom_cons_eq_some.mp h
    obtain ⟨nodup, fresh, kept, written⟩ := ih hr
    have hw := readRlut_writeCell hm
    have hc : readRlut r c = .invalid := (writeCell_isSome r c (BitVec.ofNat 5 n)).mp (by rw [hm]; rfl)
    have hcs : c ∉ cs := fun hmem => by
      have := fresh c hmem
      rw [hw, if_pos rfl] at this
      cases this
    refine ⟨List.nodup_cons.mpr ⟨hcs, nodup⟩, fun d hd => ?_, fun d hd => ?_, fun k hk => ?_⟩
    · rcases List.mem_cons.mp hd with rfl | hmem
      · exact hc
      · rw [← fresh d hmem, hw, if_neg (by rintro rfl; exact hcs hmem)]
    · rw [List.mem_cons, not_or] at hd
      rw [kept d hd.2, hw, if_neg hd.1]
    · cases k with
      | zero => rw [List.getElem_cons_zero, kept c hcs, hw, if_pos rfl, Nat.add_zero]
      | succ k =>
        rw [List.getElem_cons_succ, written k (by simpa using hk)]
        congr 2
        omega

/-- When the construction's loop succeeds: on distinct symbols whose cells are unwritten (10_state.md R26). -/
theorem constructFrom_isSome {cs : List Byte} {n : Nat} {r : ReverseTable} (nodup : cs.Nodup)
    (fresh : ∀ c ∈ cs, readRlut r c = .invalid) : ∃ r', constructFrom cs n r = some r' := by
  induction cs generalizing n r with
  | nil => exact ⟨r, rfl⟩
  | cons c cs ih =>
    obtain ⟨hcs, nodup⟩ := List.nodup_cons.mp nodup
    obtain ⟨m, hm⟩ := Option.isSome_iff_exists.mp
      ((writeCell_isSome r c (BitVec.ofNat 5 n)).mpr (fresh c List.mem_cons_self))
    obtain ⟨r', hr⟩ := ih (n := n + 1) (r := m) nodup fun d hd => by
      rw [readRlut_writeCell hm, if_neg (by rintro rfl; exact hcs hd)]
      exact fresh d (List.mem_cons_of_mem c hd)
    exact ⟨r', constructFrom_cons_eq_some.mpr ⟨m, hm, hr⟩⟩

/-- A forward-table read is a read of the table's list. -/
theorem readAlphabet_eq_getElem (a : ForwardTable) (i : Quintet) :
    readAlphabet a i = a.toList[i.toNat]'(by simp; exact i.isLt) := by
  simp [readAlphabet]

end Sys2Proof.Machine
end

