-- ==== Sys2Proof/Laws/Wrapper.lean ====
section
/-! SUPPORT. What each composite form of the wrapper gives, in terms of the block's ports (30_encoding.md R64). -/

namespace Sys2Proof.Machine

theorem formatSmall_eq (b : ByteQuantum) (s : State) :
    formatSmall b s = .next (textSymbols (encodeQuantum s.alphabet b), s.presentEnc b) := rfl

theorem formatLarge_eq (b c : ByteQuantum) (s : State) :
    formatLarge b c s = .next (textSymbols (encodeQuantum s.alphabet b) ++ separator ::
      textSymbols (encodeQuantum s.alphabet c), (s.presentEnc b).presentEnc c) := rfl

/-- Parsing a text quantum is the decoder's outcome on it (00_scope.md R15). -/
theorem parseSmall_textSymbols (t : TextQuantum) (s : State) :
    parseSmall (textSymbols t) s = .next (outcomeOf (decodeQuantum s.rlut t), s.presentDec t) := by
  simp [parseSmall, textOfBytes_textSymbols, andThen, State.decResult]

/-- All that parsing can do: one DEC of a text of eight characters, or the wrapper's own error without a transaction
(00_scope.md R15). -/
theorem parseSmall_cases (text : List Byte) (s : State) :
    (∃ t, text = textSymbols t ∧ parseSmall text s = .next (outcomeOf (decodeQuantum s.rlut t), s.presentDec t)) ∨
    parseSmall text s = .next (.error .invalidSyntax, s) := by
  cases h : textOfBytes text with
  | none => exact .inr (by simp [parseSmall, h])
  | some t =>
    obtain rfl := textOfBytes_eq_some h
    exact .inl ⟨t, rfl, parseSmall_textSymbols t s⟩

end Sys2Proof.Machine
end

