-- ==== Sys2Proof/Tests/Slice0.lean ====
section
/-! SUPPORT. Small tests, their expected results from spec/95_test_vectors.md (the id stands in each comment), the
smoke tests of WellFormed, and for every statement that has hypotheses a witness that meets them. -/

namespace Sys2Proof.Tests
open Sys2Proof.Machine

/-- What a test reads of an outcome: one field of the next state. -/
def seen {σ α φ ρ : Type} (f : σ → α) : Host.Outcome σ φ ρ → Option α
  | .next s => some (f s)
  | .fault _ => none
  | .refused _ => none

/-- The refusal of an outcome. -/
def stop {σ φ ρ : Type} : Host.Outcome σ φ ρ → Option ρ
  | .next _ => none
  | .fault _ => none
  | .refused r => some r

/-- The block with one frame to present. -/
def one (d : Drive) : State := State.reset.withPending [d]

/-- A frame of defined bytes. -/
def frame (op : Op) (bytes : List Byte) : Drive := { op := op, port := bytes.map PortByte.known }

/-! ### Decoding, from words written out from the formats -/

/-- V-ENC-11: op 0 and the five bytes of ENC-IN, B0 first (30_encoding.md R57). -/
theorem test_decode_enc : decode (frame 0#1 [0b00000000#8, 0b01000100#8, 0b00110010#8, 0b00010100#8, 0b11000111#8]) =
    .ok (.enc 0b0000000001000100001100100001010011000111#40) := by decide +kernel

/-- V-DEC-6: op 1 and the eight bytes of DEC-IN, S0 first (30_encoding.md R59). -/
theorem test_decode_dec : decode (frame 1#1 [0b01110100#8, 0b01110110#8, 0b01110111#8, 0b01111000#8, 0b01111001#8,
      0b01111010#8, 0b00110000#8, 0b00110001#8]) = .ok (.dec 0x74767778797A3031#64) := by decide +kernel

/-! ### WellFormed: an ill-formed frame for each check, which the check and the decoder refuse -/

/-- 20_memory.md R46: seven symbols are no text quantum. -/
theorem test_short_frame_refused : (frame 1 (List.replicate 7 0x30)).fitsPort = false ∧
    decode (frame 1 (List.replicate 7 0x30)) = .error .portWidth := by decide +kernel

/-- 20_memory.md R46: six bytes are no byte quantum. -/
theorem test_long_frame_refused : (frame 0 (List.replicate 6 0)).fitsPort = false ∧
    decode (frame 0 (List.replicate 6 0)) = .error .portWidth := by decide +kernel

/-- 70_reset_and_hazards.md R127: one bit of the last byte is not a defined 0 or 1. -/
theorem test_undefined_bit_refused :
    Drive.defined { op := 0, port := [⟨0, 0⟩, ⟨0, 0⟩, ⟨0, 0⟩, ⟨0, 0⟩, ⟨0, 1⟩] } = false ∧
    decode { op := 0, port := [⟨0, 0⟩, ⟨0, 0⟩, ⟨0, 0⟩, ⟨0, 0⟩, ⟨0, 1⟩] } = .error .undefinedBit := by decide +kernel

/-! ### One step of each instruction -/

/-- V-ENC-8, ascending nibbles: "04hmasw9". -/
theorem test_enc_ascending : seen State.encOut (step (one (encode (.enc 0x0123456789)))) = some 0x3034686D61737739 := by
  decide +kernel

/-- V-ENC-2, byte 1 only: quintets 1 and 3 straddle its edges. -/
theorem test_enc_straddle : seen State.encOut (step (one (encode (.enc 0x00FF000000)))) = some 0x30337A6730303030 := by
  decide +kernel

/-- V-DEC-4, "abcdefgh". -/
theorem test_dec_letters : seen State.decResult (step (one (encode (.dec 0x6162636465666768)))) =
    some (.ok 0x52D8D73E11) := by decide +kernel

/-- V-MULTI-6, the uppercase "Y3GX5GXM" is rejected. -/
theorem test_dec_uppercase : seen State.decResult (step (one (encode (.dec 0x593347583547584D)))) =
    some (.error .invalidSyntax) := by decide +kernel

/-- R127 through a step. -/
theorem test_step_refuses_undefined :
    stop (step (one { op := 1, port := List.replicate 8 ⟨0x30, 0x80⟩ })) = some .undefinedInput := by decide +kernel

/-- The step runs what withFetchWord places: V-SRC-1 from the table's row of ENC with operand bytes of zeros. -/
theorem test_withFetchWord : seen State.encOut (step (State.reset.withFetchWord 8 0)) = some 0x3030303030303030 ∧
    seen State.decIn (step (State.reset.withFetchWord 8 1)) = some 0 := by decide +kernel

/-- 00_scope.md R6, R7: the fixed parameters fit together and give the ports' widths. -/
theorem test_parameters : 8 * Config.quantumBytes = 40 ∧ Config.quantumSymbols * Config.bitsPerSymbol = 40 ∧
    Config.quantumSymbols * Config.symbolWidth = 64 ∧ Config.accWidth = 64 ∧
    Config.alphabetSize = 2 ^ Config.bitsPerSymbol ∧ Config.rlutEntries = 2 ^ Config.symbolWidth := by decide

/-! ### Construction and wrapper -/

/-- V-CONS-2: `z` replaced by a second `y`. -/
def duplicated : ForwardTable := fixedAlphabet.set 31 0x79

theorem test_duplicate_fails : construct duplicated = none := by decide +kernel

/-- V-SRC-7: "y3gx5gxm-mpb8ey39". -/
theorem test_format_large : seen Prod.fst (formatLarge 0xF0E1D2C3B4 0xA596877869 State.reset) =
    some [0x79, 0x33, 0x67, 0x78, 0x35, 0x67, 0x78, 0x6D, 0x2D, 0x6D, 0x70, 0x62, 0x38, 0x65, 0x79, 0x33, 0x39] := by
  decide +kernel

/-- V-SEP-8: the hyphen at index 9. -/
theorem test_separator_moved : seen Prod.fst (parseIdentifier [0x79, 0x33, 0x67, 0x78, 0x35, 0x67, 0x78, 0x6D, 0x6D,
    0x2D, 0x70, 0x62, 0x38, 0x65, 0x79, 0x33, 0x39] State.reset) = some (.error .invalidSyntax) := by decide +kernel

/-! ### Witnesses: for every statement with hypotheses, a state and operands that meet them -/

/-- The block after an ENC of 1: a state that meets TablesFixed, TablesBuilt, Settled and Inv. -/
def used : State := State.reset.presentEnc 1

/-- "00000000" and "0000000i" (95_test_vectors.md V-DEC-1, V-BAD-5). -/
def zeros : TextQuantum := 0x3030303030303030
def alien : TextQuantum := 0x3030303030303069

theorem used_fixed : used.TablesFixed := ⟨rfl, rfl⟩
theorem used_built : used.TablesBuilt := by decide +kernel
theorem zeros_accepted (s : State) (h : s.rlut = fixedReverseTable) : (s.presentDec zeros).decValid = 1 := by
  rw [State.presentDec_decValid, h]
  decide +kernel
theorem alien_rejected : (used.presentDec alien).decValid = 0 := by
  rw [State.presentDec_decValid]
  decide +kernel
theorem result_of_valid {s : State} (h : s.decValid = 1) : s.decResult = .ok s.decOut := if_pos h
theorem result_of_invalid {s : State} (h : s.decValid = 0) : s.decResult = .error .invalidSyntax := by
  simp [State.decResult, outcomeOf, h]

theorem witness_EncodeMapsQuintetsThroughAlphabet :
    used.alphabet = fixedAlphabet ∧ (31 : ByteQuantum).toNat < 32 ∧ (0 : Lane) ≠ 7 := ⟨rfl, by decide, by decide⟩

theorem witness_EncodeFrameAndPurity : ∃ t t' : State, exec (.enc 5) used = .next t ∧
    (State.reset).alphabet = used.alphabet ∧ exec (.enc 5) State.reset = .next t' := ⟨_, _, rfl, rfl, rfl⟩

theorem witness_EncoderOutputHoldsAlphabetBytes : used.Inv := by
  refine ⟨used_fixed, ?_⟩
  exact Settled.presentEnc (by simp [State.reset, State.Settled]) 1

theorem witness_EncodeEmitsDigitsOrLowercaseLetters : used.TablesFixed ∧
    (quintet 0x0000000009 7).toNat = 9 ∧ (quintet 0x000000000A 7).toNat = 10 := ⟨used_fixed, by decide, by decide⟩

theorem witness_EncodeLanesAreIndependent : ∃ t u : State,
    exec (.enc 0) used = .next t ∧ exec (.enc 1) used = .next u ∧
    (0 : ByteQuantum).extractLsb' 35 5 = (1 : ByteQuantum).extractLsb' 35 5 := ⟨_, _, rfl, rfl, by decide⟩

theorem witness_EncodeIsInjective : ∃ t u : State, used.TablesBuilt ∧
    exec (.enc 3) used = .next t ∧ exec (.enc 3) used = .next u ∧ t.encOut = u.encOut :=
  ⟨_, _, used_built, rfl, rfl, rfl⟩

theorem witness_DecodeMapsSymbolsOrRejects : used.rlut = fixedReverseTable ∧
    (∀ j : Lane, readRlut used.rlut (zeros.extractLsb' (56 - 8 * j.val) 8) ≠ .invalid) ∧
    (∃ j : Lane, readRlut used.rlut (alien.extractLsb' (56 - 8 * j.val) 8) = .invalid) := by
  refine ⟨rfl, by decide +kernel, by decide +kernel⟩

theorem witness_DecodeAcceptsExactlyAlphabetText : used.TablesBuilt ∧ AllSymbolsIn used.alphabet zeros ∧
    ¬ AllSymbolsIn used.alphabet alien := ⟨used_built, by decide +kernel, by decide +kernel⟩

theorem witness_RejectionForcesDataOutputToZero : ∃ t : State, exec (.dec alien) used = .next t ∧ t.decValid = 0 :=
  ⟨_, exec_dec _ _, alien_rejected⟩

theorem witness_DecodeFrameAndPurity : ∃ t t' : State, exec (.dec alien) used = .next t ∧
    (State.reset).rlut = used.rlut ∧ exec (.dec alien) State.reset = .next t' := ⟨_, _, rfl, rfl, rfl⟩

theorem witness_DecodeLanesAreIndependent : ∃ t u : State,
    exec (.dec zeros) used = .next t ∧ exec (.dec 0x303030303030307A) used = .next u ∧
    t.decValid = 1 ∧ u.decValid = 1 ∧
    zeros.extractLsb' 56 8 = (0x303030303030307A : TextQuantum).extractLsb' 56 8 :=
  ⟨_, _, exec_dec _ _, exec_dec _ _, zeros_accepted _ rfl, by rw [State.presentDec_decValid]; decide +kernel, by decide⟩

/-- The ends of each range: `A`, `Z`, 0x80, 0xFF; one of the listed bytes. -/
theorem witness_DecodeFoldsNoCaseAndAliasesNothing : used.TablesFixed ∧
    (0x41 ≤ (symbol 0x4130303030303030 0).toNat ∧ (symbol 0x4130303030303030 0).toNat ≤ 0x5A) ∧
    (0x41 ≤ (symbol 0x5A30303030303030 0).toNat ∧ (symbol 0x5A30303030303030 0).toNat ≤ 0x5A) ∧
    symbol alien 7 ∈ [(0x69 : Byte), 0x6C, 0x6F, 0x75, 0x2D, 0x20, 0x00] ∧
    0x80 ≤ (symbol 0x8030303030303030 0).toNat ∧ 0x80 ≤ (symbol 0x30303030303030FF 7).toNat :=
  ⟨used_fixed, by decide, by decide, by decide, by decide, by decide⟩

theorem witness_DecodeOfEncodeIsIdentity : used.TablesBuilt := used_built

theorem witness_EncodeOfAcceptedDecodeIsIdentity : ∃ t b, used.TablesBuilt ∧ exec (.dec zeros) used = .next t ∧
    t.decResult = .ok b := ⟨_, _, used_built, exec_dec _ _, result_of_valid (zeros_accepted _ rfl)⟩

theorem witness_EncodeIsBijectionOntoAlphabetText : used.TablesBuilt ∧ AllSymbolsIn used.alphabet zeros :=
  ⟨used_built, by decide +kernel⟩

theorem witness_RejectionIsNoTrap : ∃ j : Lane, readRlut used.rlut (symbol alien j) = .invalid := by decide +kernel

theorem witness_OnlyAlienSymbolsFail : used.TablesBuilt ∧ ∃ j : Lane, ∀ i, readAlphabet used.alphabet i ≠ symbol alien j :=
  ⟨used_built, by decide +kernel⟩

theorem witness_AllRejectionsLookAlike : ∃ t u w : State, exec (.dec alien) used = .next t ∧
    exec (.dec 0) used = .next u ∧ t.decValid = 0 ∧ u.decValid = 0 ∧ exec (.enc 1) used = .next w :=
  ⟨_, _, _, exec_dec _ _, exec_dec _ _, alien_rejected, by rw [State.presentDec_decValid]; decide +kernel, exec_enc _ _⟩

/-- The ends of the ranges: 0x2F, 0x3A, 0x60, 0x7B; an omitted letter. -/
theorem witness_InvalidEntriesAreTheListedRanges : readRlut fixedReverseTable 0x2F = .invalid ∧
    readRlut fixedReverseTable 0x3A = .invalid ∧ readRlut fixedReverseTable 0x60 = .invalid ∧
    readRlut fixedReverseTable 0x7B = .invalid ∧ readRlut fixedReverseTable 0x69 = .invalid := by decide +kernel

theorem witness_AlphabetIsDistinctOrderedLowercase : (0 : Quintet).toNat < (31 : Quintet).toNat ∧
    (9 : Quintet).toNat ≤ 9 ∧ 10 ≤ (10 : Quintet).toNat ∧ 0x61 ≤ (0x7A : Byte).toNat ∧ (0x7A : Byte).toNat ≤ 0x7A := by
  decide

theorem witness_ConstructionFailsExactlyOnDuplicate :
    ∃ i k, i ≠ k ∧ readAlphabet duplicated i = readAlphabet duplicated k := ⟨30, 31, by decide, by decide +kernel⟩

theorem witness_ConstructedTableInvertsAlphabet : ∃ a r, construct a = some r := ⟨_, _, used_built⟩

theorem witness_QuantaAreBigEndian : ∃ t : State, used.alphabet = fixedAlphabet ∧ exec (.dec zeros) used = .next t ∧
    t.decValid = 1 := ⟨_, rfl, exec_dec _ _, zeros_accepted _ rfl⟩

theorem witness_QuintetsInTermsOfBytes : ∃ b : Fin 5 → Byte,
    ∀ k : Fin 5, b k = (0xF0E1D2C3B4 : ByteQuantum).extractLsb' (32 - 8 * k.val) 8 := ⟨_, fun _ => rfl⟩

theorem witness_FrameOfTransactionIsUnique : decode (frame 0 [1, 2, 3, 4, 5]) = .ok (.enc 0x0102030405) := by
  decide +kernel

theorem witness_DecoderTotalOnWellFormedFrames : (frame 0 [1, 2, 3, 4, 5]).wellFormed = true ∧
    (frame 1 [1, 2, 3, 4, 5, 6, 7, 8]).wellFormed = true := by decide

theorem witness_RepeatedTransactionChangesNothing : ∃ t : State, exec (.dec alien) used = .next t := ⟨_, rfl⟩

theorem witness_StepRunsDecodedTransaction : ∃ i, (one (frame 0 [1, 2, 3, 4, 5])).pending = frame 0 [1, 2, 3, 4, 5] :: [] ∧
    decode (frame 0 [1, 2, 3, 4, 5]) = .ok i := ⟨_, rfl, witness_FrameOfTransactionIsUnique⟩

theorem witness_HeldInputKeepsOutputs : used.pending = [] := rfl

theorem witness_UndefinedInputIsRefused : ∃ d : Drive, (one d).pending = d :: [] ∧ ∃ b ∈ d.port, b.undef ≠ 0 :=
  ⟨{ op := 0, port := [⟨0, 1⟩] }, rfl, by decide⟩

/-- One byte too few and one too many, for each unit. -/
theorem witness_MisfitFrameIsRefused : ∀ d ∈ [frame 0 (List.replicate 4 0), frame 0 (List.replicate 6 0),
      frame 1 (List.replicate 7 0), frame 1 (List.replicate 9 0)],
    (one d).pending = d :: [] ∧ (∀ b ∈ d.port, b.undef = 0) ∧ d.port.length ≠ (if d.op = 0 then 5 else 8) := by
  intro d hd
  refine ⟨rfl, ?_⟩
  revert d
  decide

theorem witness_StepKeepsTablesAndSettledPorts : ∃ t, used.Inv ∧ step used = .next t :=
  ⟨used, witness_EncoderOutputHoldsAlphabetBytes, rfl⟩

theorem witness_WellFormedInputsNeverStop : (one (frame 1 [1, 2, 3, 4, 5, 6, 7, 8])).PendingWellFormed := by decide

theorem witness_OutcomeIndependentOfHistory : ∃ t, Host.Core.run core 1 (one (encode (.enc 5))) = .next t := ⟨_, rfl⟩

/-- The wrapper's checks at their boundaries: 16 and 18 characters with the hyphen at index 8, and 17 characters with
the hyphen at index 7 and at index 9 (as V-REJ-44, V-REJ-45, V-SEP-7, V-SEP-8); and two accepted chunks. -/
theorem witness_CompositeFormsExpandToTransactions :
    (∀ text ∈ [List.replicate 8 (0x30 : Byte) ++ [0x2D] ++ List.replicate 7 0x30,
        List.replicate 8 0x30 ++ [0x2D] ++ List.replicate 9 0x30,
        List.replicate 7 0x30 ++ [0x2D] ++ List.replicate 9 0x30,
        List.replicate 9 0x30 ++ [0x2D] ++ List.replicate 7 0x30],
      ¬ (text.length = 17 ∧ text[8]? = some 0x2D)) ∧
    (∃ t u b c, exec (.dec zeros) used = .next t ∧ exec (.dec zeros) t = .next u ∧
      t.decResult = .ok b ∧ u.decResult = .ok c) ∧
    (∃ t u, exec (.dec alien) used = .next t ∧ exec (.dec zeros) t = .next u ∧
      t.decResult = .error .invalidSyntax) :=
  ⟨by decide,
    ⟨_, _, _, _, exec_dec _ _, exec_dec _ _, result_of_valid (zeros_accepted _ rfl), result_of_valid (zeros_accepted _ rfl)⟩,
    ⟨_, _, exec_dec _ _, exec_dec _ _, result_of_invalid alien_rejected⟩⟩

theorem witness_ParseOfFormatIsIdentity : used.TablesBuilt := used_built

/-- The 8-character and the 17-character form. -/
theorem witness_FormatOfParseIsIdentity : used.TablesBuilt ∧
    seen Prod.fst (parseIdentifier (List.replicate 8 0x30) used) = some (.ok (.small 0)) ∧
    seen Prod.fst (parseIdentifier (List.replicate 8 0x30 ++ [0x2D] ++ List.replicate 8 0x30) used) =
      some (.ok (.large 0 0)) := ⟨used_built, by decide +kernel, by decide +kernel⟩

end Sys2Proof.Tests
end

section
/-! PROOFS. What the construction of the reverse table leaves behind, read through the two tables
(10_state.md R27). -/

namespace Sys2Proof.Machine

/-- The bytes of the forward table's list are what its 32 reads give (00_scope.md R10). -/
theorem mem_toList_iff_readAlphabet (a : ForwardTable) (c : Byte) :
    c ∈ a.toList ↔ ∃ i, readAlphabet a i = c := by
  constructor
  · intro hc
    obtain ⟨k, hk, rfl⟩ := List.mem_iff_getElem.mp hc
    have hk32 : k < 2 ^ 5 := by simpa using hk
    exact ⟨BitVec.ofNatLT k hk32, readAlphabet_eq_getElem a _⟩
  · rintro ⟨i, rfl⟩
    rw [readAlphabet_eq_getElem]
    exact List.getElem_mem _

section constructed

variable {a : ForwardTable} {r : ReverseTable} (h : construct a = some r)
include h

/-- Each symbol's cell holds the symbol's index. -/
theorem readRlut_readAlphabet_of_construct (i : Quintet) : readRlut r (readAlphabet a i) = .valid i := by
  obtain ⟨-, -, -, written⟩ := constructFrom_spec h
  rw [readAlphabet_eq_getElem, written i.toNat, Nat.zero_add, BitVec.ofNat_toNat, BitVec.setWidth_eq]

/-- The cells of the other bytes still hold the blank table's sentinel. -/
theorem readRlut_eq_invalid_of_construct {c : Byte} (alien : ∀ i, readAlphabet a i ≠ c) :
    readRlut r c = .invalid := by
  obtain ⟨-, -, kept, -⟩ := constructFrom_spec h
  have hc : c ∉ a.toList := by
    rw [mem_toList_iff_readAlphabet]
    exact not_exists.mpr alien
  rw [kept c hc, readRlut_blankTable]

/-- An index can stand only in the cell of its own symbol: the cell of an alien byte holds the sentinel, the cell of
another symbol another index. -/
theorem readAlphabet_of_readRlut_of_construct {c : Byte} {i : Quintet} (hi : readRlut r c = .valid i) :
    readAlphabet a i = c := by
  by_cases hc : ∃ k, readAlphabet a k = c
  · obtain ⟨k, rfl⟩ := hc
    rw [readRlut_readAlphabet_of_construct h] at hi
    rw [Entry.valid.inj hi]
  · rw [readRlut_eq_invalid_of_construct h (not_exists.mp hc)] at hi
    cases hi

/-- The reverse table is a left inverse, so no symbol stands at two indices (10_state.md R26). -/
theorem readAlphabet_injective_of_construct {i k : Quintet} (hik : readAlphabet a i = readAlphabet a k) : i = k := by
  apply Entry.valid.inj
  rw [← readRlut_readAlphabet_of_construct h i, hik, readRlut_readAlphabet_of_construct h k]

end constructed

/-- Settles O26, from what the construction's loop leaves in the cells it writes and in the others
(`constructFrom_spec`). -/
theorem constructedTableInvertsAlphabet : Obligations.ConstructedTableInvertsAlphabet := by
  unfold Obligations.ConstructedTableInvertsAlphabet
  intro a r h
  exact ⟨readRlut_readAlphabet_of_construct h, fun _ => readRlut_eq_invalid_of_construct h,
    fun _ _ => readAlphabet_of_readRlut_of_construct h, fun _ _ => readAlphabet_injective_of_construct h⟩

end Sys2Proof.Machine
end

section
/-! PROOFS. A transaction leaves behind nothing but its own ports, and these are functions of its input: what was
presented to the same unit before it does not show (20_memory.md R48). -/

namespace Sys2Proof.Machine

/-- The encoder keeps no trace of the quantum presented before: its output is computed from the table, which
stays, and the present input. -/
@[simp] theorem State.presentEnc_presentEnc (s : State) (w v : ByteQuantum) :
    (s.presentEnc w).presentEnc v = s.presentEnc v := rfl

/-- The decoder keeps no trace of the text presented before. -/
@[simp] theorem State.presentDec_presentDec (s : State) (x y : TextQuantum) :
    (s.presentDec x).presentDec y = s.presentDec y := rfl

/-- No transaction writes a table (20_memory.md R48). -/
theorem exec_keeps_tables {i : Instr} {s t : State} (h : exec i s = .next t) :
    t.alphabet = s.alphabet ∧ t.rlut = s.rlut := by
  cases i with
  | enc v =>
    obtain rfl : s.presentEnc v = t := by simpa using h
    exact ⟨s.presentEnc_alphabet v, s.presentEnc_rlut v⟩
  | dec x =>
    obtain rfl : s.presentDec x = t := by simpa using h
    exact ⟨s.presentDec_alphabet x, s.presentDec_rlut x⟩

/-- The state a transaction leaves behind is a fixed point of that transaction. -/
theorem exec_idempotent {i : Instr} {s t : State} (h : exec i s = .next t) : exec i t = .next t := by
  cases i with
  | enc v =>
    obtain rfl : s.presentEnc v = t := by simpa using h
    rw [exec_enc, State.presentEnc_presentEnc]
  | dec x =>
    obtain rfl : s.presentDec x = t := by simpa using h
    rw [exec_dec, State.presentDec_presentDec]

/-- Settles O36: a transaction writes no table (`exec_keeps_tables`), and presenting the same quantum again gives the
same ports (`exec_idempotent`). -/
theorem repeatedTransactionChangesNothing : Obligations.RepeatedTransactionChangesNothing := by
  unfold Obligations.RepeatedTransactionChangesNothing
  intro i s t h
  obtain ⟨alphabetKept, rlutKept⟩ := exec_keeps_tables h
  exact ⟨alphabetKept, rlutKept, exec_idempotent h⟩

end Sys2Proof.Machine
end

section
/-! PROOFS. The fields of the four port formats: what bytes the host may put on an input port, and what stands on the
output ports (30_encoding.md R57 to R60). -/

namespace Sys2Proof.Machine

/-- With op 0, the bytes of a byte quantum are an ENC of it (30_encoding.md R62). -/
theorem decodeBytes_enc_of_quantumOfBytes {bs : List Byte} {v : ByteQuantum} (h : quantumOfBytes bs = some v) :
    decodeBytes 0 bs = .ok (.enc v) := by
  simp [decodeBytes, h]

/-- With op 1, the bytes of a text quantum are a DEC of it (30_encoding.md R62). -/
theorem decodeBytes_dec_of_textOfBytes {bs : List Byte} {x : TextQuantum} (h : textOfBytes bs = some x) :
    decodeBytes 1 bs = .ok (.dec x) := by
  simp [decodeBytes, h]

/-- `dec_valid` is one bit, so the present outcome of the decoder is an acceptance of `dec_out` or the one rejection
(30_encoding.md R60). -/
theorem State.decResult_cases (s : State) :
    (s.decValid = 1 ∧ s.decResult = .ok s.decOut) ∨ (s.decValid = 0 ∧ s.decResult = .error .invalidSyntax) := by
  rcases BitVec.eq_zero_or_eq_one s.decValid with invalid | valid
  · exact .inr ⟨invalid, by simp [State.decResult, outcomeOf, invalid]⟩
  · exact .inl ⟨valid, by simp [State.decResult, outcomeOf, valid]⟩

/-- Every symbol the encoder emits was read from its forward table (40_encode.md R70). -/
theorem allSymbolsIn_encodeQuantum (a : ForwardTable) (v : ByteQuantum) : AllSymbolsIn a (encodeQuantum a v) :=
  fun j => ⟨quintet v j, (symbol_encodeQuantum a v j).symm⟩

/-- Settles O29: the bytes of the quantum that is decoded are the bytes given (`quantumOfBytes_eq_some`), and `exec`
answers ENC with a next state whatever the operand. -/
theorem encoderInputFields : Obligations.EncoderInputFields := by
  unfold Obligations.EncoderInputFields
  constructor
  · intro b0 b1 b2 b3 b4
    have packed : quantumOfBytes [b0, b1, b2, b3, b4] = some (packBytes b0 b1 b2 b3 b4) := rfl
    refine ⟨_, decodeBytes_enc_of_quantumOfBytes packed, ?_⟩
    simpa [quantumBytes, quantumByte] using (quantumOfBytes_eq_some packed).symm
  · exact fun v s => ⟨_, exec_enc v s⟩

/-- Settles O30: the symbols of the text that is decoded are the bytes given (`textOfBytes_eq_some`), and a DEC of any
text leaves an acceptance or the rejection on the decoder's ports (`State.decResult_cases`). -/
theorem decoderInputFields : Obligations.DecoderInputFields := by
  unfold Obligations.DecoderInputFields
  constructor
  · intro s0 s1 s2 s3 s4 s5 s6 s7
    have packed : textOfBytes [s0, s1, s2, s3, s4, s5, s6, s7] =
      some (s0 ++ s1 ++ s2 ++ s3 ++ s4 ++ s5 ++ s6 ++ s7) := rfl
    refine ⟨_, decodeBytes_dec_of_textOfBytes packed, ?_⟩
    simpa [textSymbols, symbol] using (textOfBytes_eq_some packed).symm
  · exact fun x s => ⟨_, exec_dec x s, (s.presentDec x).decResult_cases⟩

/-- Settles O3: in a settled state, and after an ENC, `enc_out` is an encoder's output over the fixed alphabet, so its
symbols are the alphabet's (`allSymbolsIn_encodeQuantum`). -/
theorem encoderOutputHoldsAlphabetBytes : Obligations.EncoderOutputHoldsAlphabetBytes := by
  unfold Obligations.EncoderOutputHoldsAlphabetBytes
  rintro s ⟨⟨alphabetFixed, -⟩, ⟨encSettled, -⟩⟩
  rw [alphabetFixed] at encSettled
  constructor
  · rw [encSettled]
    exact allSymbolsIn_encodeQuantum fixedAlphabet s.encIn
  · intro v
    refine ⟨_, exec_enc v s, ?_⟩
    rw [State.presentEnc_encOut, alphabetFixed]
    exact allSymbolsIn_encodeQuantum fixedAlphabet v

end Sys2Proof.Machine
end

section
/-! PROOFS. What an ENC writes and what its output depends on (40_encode.md R74). -/

namespace Sys2Proof.Machine

/-- The only next state an ENC answers is the one in which its quantum stands before the encoder. -/
theorem eq_presentEnc_of_exec_enc {v : ByteQuantum} {s t : State} (h : exec (.enc v) s = .next t) :
    t = s.presentEnc v := by
  simpa using h.symm

/-- Two states with the same forward table give the same `enc_out` for the same `enc_in`, whatever else they hold
(40_encode.md R74). -/
theorem encOut_eq_of_exec_enc_of_alphabet_eq {v : ByteQuantum} {s s' t t' : State}
    (sameTable : s'.alphabet = s.alphabet) (h : exec (.enc v) s = .next t) (h' : exec (.enc v) s' = .next t') :
    t'.encOut = t.encOut := by
  rw [eq_presentEnc_of_exec_enc h, eq_presentEnc_of_exec_enc h', State.presentEnc_encOut, State.presentEnc_encOut,
    sameTable]

/-- Settles O2: the frame is that of `State.presentEnc`, field by field, and the output is a function of the table and
the input (`encOut_eq_of_exec_enc_of_alphabet_eq`). -/
theorem encodeFrameAndPurity : Obligations.EncodeFrameAndPurity := by
  unfold Obligations.EncodeFrameAndPurity
  intro v s t h
  have purity : ∀ s' t' : State, s'.alphabet = s.alphabet → exec (.enc v) s' = .next t' → t'.encOut = t.encOut :=
    fun _ _ sameTable h' => encOut_eq_of_exec_enc_of_alphabet_eq sameTable h h'
  obtain rfl := eq_presentEnc_of_exec_enc h
  exact ⟨s.presentEnc_alphabet v, s.presentEnc_rlut v, s.presentEnc_encIn v, s.presentEnc_decIn v,
    s.presentEnc_decOut v, s.presentEnc_decValid v, s.presentEnc_pending v, purity⟩

end Sys2Proof.Machine
end

section
/-! PROOFS. The decoder against the alphabet its reverse table was built from: which texts it accepts, and that it
undoes the encoder (41_decode.md R81, R86). -/

namespace Sys2Proof.Machine

/-- `dec_valid` is 1 exactly if every lane reads an entry that holds a value (41_decode.md R81). -/
theorem decodeQuantum_valid_eq_one {r : ReverseTable} {x : TextQuantum} :
    (decodeQuantum r x).valid = 1 ↔ ∀ j, ∃ v, decLane r x j = .valid v := by
  rcases decodeQuantum_cases r x with ⟨lanes, valid⟩ | ⟨⟨j, hj⟩, reject⟩
  · exact iff_of_true valid fun j => ⟨_, lanes j⟩
  · refine iff_of_false (by simp [reject, rejected]) fun lanes => ?_
    obtain ⟨v, hv⟩ := lanes j
    rw [hj] at hv
    cases hv

/-- Lanes that read the quintets of `b` make the decoder accept, with `b` as the bytes (41_decode.md R80). -/
theorem decodeQuantum_eq_of_lanes {r : ReverseTable} {x : TextQuantum} {b : ByteQuantum}
    (lanes : ∀ j, decLane r x j = .valid (quintet b j)) : decodeQuantum r x = { valid := 1, out := b } := by
  rcases decodeQuantum_cases r x with ⟨lanes', valid⟩ | ⟨⟨j, hj⟩, -⟩
  · have out : (decodeQuantum r x).out = b :=
      eq_of_quintets fun j => Entry.valid.inj ((lanes' j).symm.trans (lanes j))
    rw [← valid, ← out]
  · rw [lanes j] at hj
    cases hj

section constructed

variable {a : ForwardTable} {r : ReverseTable} (h : construct a = some r)
include h

/-- An entry holds an index exactly if its byte is the symbol at that index: the two tables are inverse to each other
(10_state.md R27). -/
theorem readRlut_eq_valid_iff_of_construct {c : Byte} {i : Quintet} :
    readRlut r c = .valid i ↔ readAlphabet a i = c :=
  ⟨readAlphabet_of_readRlut_of_construct h, fun hc => hc ▸ readRlut_readAlphabet_of_construct h i⟩

/-- The decoder accepts exactly the texts of alphabet symbols. -/
theorem decodeQuantum_valid_iff_allSymbolsIn_of_construct {x : TextQuantum} :
    (decodeQuantum r x).valid = 1 ↔ AllSymbolsIn a x := by
  simp only [decodeQuantum_valid_eq_one, decLane, readRlut_eq_valid_iff_of_construct h, AllSymbolsIn]

/-- The decoder undoes the encoder: lane j reads the cell of the symbol at index `Q_j`, which holds `Q_j`. -/
theorem decodeQuantum_encodeQuantum_of_construct (b : ByteQuantum) :
    decodeQuantum r (encodeQuantum a b) = { valid := 1, out := b } :=
  decodeQuantum_eq_of_lanes fun j => by
    rw [decLane, symbol_encodeQuantum, readRlut_readAlphabet_of_construct h]

end constructed

/-- Settles O15: the ENC keeps the reverse table, and with it the DEC of the text it left on `enc_out` gives the
quantum back (`decodeQuantum_encodeQuantum_of_construct`). -/
theorem decodeOfEncodeIsIdentity : Obligations.DecodeOfEncodeIsIdentity := by
  unfold Obligations.DecodeOfEncodeIsIdentity
  intro s b built
  refine ⟨_, _, exec_enc b s, exec_dec _ _, ?_⟩
  rw [State.decResult, State.presentDec_decValid, State.presentDec_decOut, State.presentEnc_encOut,
    State.presentEnc_rlut, decodeQuantum_encodeQuantum_of_construct built, outcomeOf_one]

/-- Settles O9: in a built block an entry holds a value exactly if its byte is a symbol
(`readRlut_eq_valid_iff_of_construct`), and the decoder accepts exactly if all eight entries do. -/
theorem decodeAcceptsExactlyAlphabetText : Obligations.DecodeAcceptsExactlyAlphabetText := by
  unfold Obligations.DecodeAcceptsExactlyAlphabetText
  intro s x built
  refine ⟨fun c => exists_congr fun i => readRlut_eq_valid_iff_of_construct built, _, exec_dec x s, ?_⟩
  rw [State.presentDec_decValid]
  exact decodeQuantum_valid_iff_allSymbolsIn_of_construct built

end Sys2Proof.Machine
end

section
/-! PROOFS. What a DEC writes and what its outputs depend on (41_decode.md R88). -/

namespace Sys2Proof.Machine

/-- The only next state a DEC answers is the one in which its text stands before the decoder. -/
theorem eq_presentDec_of_exec_dec {x : TextQuantum} {s t : State} (h : exec (.dec x) s = .next t) :
    t = s.presentDec x := by
  simpa using h.symm

/-- Two states with the same reverse table give the same `dec_out` and `dec_valid` for the same `dec_in`, whatever
else they hold (41_decode.md R88). -/
theorem decOutputs_eq_of_exec_dec_of_rlut_eq {x : TextQuantum} {s s' t t' : State}
    (sameTable : s'.rlut = s.rlut) (h : exec (.dec x) s = .next t) (h' : exec (.dec x) s' = .next t') :
    t'.decOut = t.decOut ∧ t'.decValid = t.decValid := by
  rw [eq_presentDec_of_exec_dec h, eq_presentDec_of_exec_dec h']
  simp only [State.presentDec_decOut, State.presentDec_decValid, sameTable, and_self]

/-- Settles O11: the frame is that of `State.presentDec`, field by field, and the outputs are functions of the reverse
table and the input (`decOutputs_eq_of_exec_dec_of_rlut_eq`). -/
theorem decodeFrameAndPurity : Obligations.DecodeFrameAndPurity := by
  unfold Obligations.DecodeFrameAndPurity
  intro x s t h
  have purity : ∀ s' t' : State, s'.rlut = s.rlut → exec (.dec x) s' = .next t' →
      t'.decOut = t.decOut ∧ t'.decValid = t.decValid :=
    fun _ _ sameTable h' => decOutputs_eq_of_exec_dec_of_rlut_eq sameTable h h'
  obtain rfl := eq_presentDec_of_exec_dec h
  exact ⟨s.presentDec_alphabet x, s.presentDec_rlut x, s.presentDec_decIn x, s.presentDec_encIn x,
    s.presentDec_encOut x, s.presentDec_pending x, purity⟩

end Sys2Proof.Machine
end

section
/-! PROOFS. Every transaction completes, and a rejection is one of its values (60_exceptions.md R103). -/

namespace Sys2Proof.Machine

/-- Every transaction answers a next state, in every state and for every operand. -/
theorem exec_completes (i : Instr) (s : State) : ∃ t, exec i s = .next t := by
  cases i with
  | enc v => exact ⟨_, exec_enc v s⟩
  | dec x => exact ⟨_, exec_dec x s⟩

/-- One lane that reads the sentinel makes the decoder reject (41_decode.md R80). -/
theorem decodeQuantum_eq_rejected_of_invalid_lane {r : ReverseTable} {x : TextQuantum} {j : Lane}
    (hj : decLane r x j = .invalid) : decodeQuantum r x = rejected := by
  rcases decodeQuantum_cases r x with ⟨lanes, -⟩ | ⟨-, reject⟩
  · rw [lanes j] at hj
    cases hj
  · exact reject

/-- Settles O18: no transaction faults because each completes (`exec_completes`); one invalid lane makes the DEC's
outputs the rejection (`decodeQuantum_eq_rejected_of_invalid_lane`), and the rest is the frame of
`State.presentDec`. -/
theorem rejectionIsNoTrap : Obligations.RejectionIsNoTrap := by
  unfold Obligations.RejectionIsNoTrap
  constructor
  · intro i s f faults
    obtain ⟨t, completes⟩ := exec_completes i s
    rw [completes] at faults
    cases faults
  · rintro s x ⟨j, hj⟩
    have invalid : (s.presentDec x).decValid = 0 := by
      rw [State.presentDec_decValid, decodeQuantum_eq_rejected_of_invalid_lane hj, rejected]
    exact ⟨_, exec_dec x s, s.presentDec_decIn x, invalid, s.presentDec_alphabet x, s.presentDec_rlut x,
      s.presentDec_encIn x, s.presentDec_encOut x, s.presentDec_pending x⟩

end Sys2Proof.Machine
end

section
/-! PROOFS. The outcome of a DEC, read at the ports and at the lanes: what accepts a text, and with which bytes
(41_decode.md R80, R81). -/

namespace Sys2Proof.Machine

/-- An outcome is the error exactly if `dec_valid` is not 1 (30_encoding.md R60). -/
theorem outcomeOf_eq_error_iff {o : DecOutputs} : outcomeOf o = .error .invalidSyntax ↔ o.valid ≠ 1 := by
  rw [outcomeOf]
  split <;> simp_all

/-- An outcome is a value exactly if `dec_valid` is 1 and the value stands on `dec_out` (30_encoding.md R60). -/
theorem outcomeOf_eq_ok_iff {o : DecOutputs} {b : ByteQuantum} :
    outcomeOf o = .ok b ↔ o.valid = 1 ∧ o.out = b := by
  rw [outcomeOf]
  split <;> simp_all

/-- The outcome shown after a DEC is that of its text. -/
@[simp] theorem State.presentDec_decResult (s : State) (x : TextQuantum) :
    (s.presentDec x).decResult = outcomeOf (decodeQuantum s.rlut x) := rfl

/-- An ENC leaves the decoder's outcome in place. -/
@[simp] theorem State.presentEnc_decResult (s : State) (v : ByteQuantum) : (s.presentEnc v).decResult = s.decResult :=
  rfl

/-- Each lane of an accepted text reads its quintet of `dec_out` (41_decode.md R80). -/
theorem decLane_of_valid_eq_one {r : ReverseTable} {x : TextQuantum} (accepts : (decodeQuantum r x).valid = 1)
    (j : Lane) : decLane r x j = .valid (quintet (decodeQuantum r x).out j) := by
  rcases decodeQuantum_cases r x with ⟨lanes, -⟩ | ⟨-, reject⟩
  · exact lanes j
  · simp [reject, rejected] at accepts

/-- With `dec_valid` at 0 the outputs are the one rejection, `dec_out` with them (41_decode.md R82). -/
theorem decodeQuantum_eq_rejected_of_valid_eq_zero {r : ReverseTable} {x : TextQuantum}
    (rejects : (decodeQuantum r x).valid = 0) : decodeQuantum r x = rejected := by
  rcases decodeQuantum_cases r x with ⟨-, accepts⟩ | ⟨-, reject⟩
  · simp [accepts] at rejects
  · exact reject

/-- The outcome is a value exactly if every lane reads its quintet of that value (41_decode.md R80). -/
theorem outcomeOf_decodeQuantum_eq_ok_iff {r : ReverseTable} {x : TextQuantum} {b : ByteQuantum} :
    outcomeOf (decodeQuantum r x) = .ok b ↔ ∀ j, decLane r x j = .valid (quintet b j) := by
  constructor
  · rw [outcomeOf_eq_ok_iff]
    rintro ⟨accepts, rfl⟩
    exact decLane_of_valid_eq_one accepts
  · intro lanes
    rw [decodeQuantum_eq_of_lanes lanes, outcomeOf_one]

end Sys2Proof.Machine
end

section
/-! PROOFS. In a built block DEC and ENC are inverse to each other: the texts accepted are the texts of byte quanta,
each of exactly one (40_encode.md R75, 41_decode.md R87). -/

namespace Sys2Proof.Machine

/-- A text is the encoding of a quantum exactly if each symbol is the alphabet's for that quintet (40_encode.md R70). -/
theorem encodeQuantum_eq_iff {a : ForwardTable} {b : ByteQuantum} {x : TextQuantum} :
    encodeQuantum a b = x ↔ ∀ j, readAlphabet a (quintet b j) = symbol x j := by
  constructor
  · rintro rfl j
    exact (symbol_encodeQuantum a b j).symm
  · exact fun symbols => eq_of_symbols fun j => (symbol_encodeQuantum a b j).trans (symbols j)

/-- Any choice of eight indices is the quintets of a quantum, so the encoder reaches every text of alphabet symbols
(00_scope.md R7). -/
theorem allSymbolsIn_iff_exists_encodeQuantum {a : ForwardTable} {x : TextQuantum} :
    AllSymbolsIn a x ↔ ∃ b, encodeQuantum a b = x := by
  constructor
  · intro symbols
    choose index hindex using symbols
    exact ⟨packQuintets index, encodeQuantum_eq_iff.mpr fun j => by rw [quintet_packQuintets, hindex]⟩
  · rintro ⟨b, rfl⟩
    exact allSymbolsIn_encodeQuantum a b

/-- What an ENC can leave on `enc_out`: the encoding of its quantum. -/
theorem exists_exec_enc_encOut_eq_iff {s : State} {b : ByteQuantum} {x : TextQuantum} :
    (∃ t, exec (.enc b) s = .next t ∧ t.encOut = x) ↔ encodeQuantum s.alphabet b = x := by
  simp

section constructed

variable {a : ForwardTable} {r : ReverseTable} (h : construct a = some r)
include h

/-- The decoder gives the bytes `b` for exactly one text, the encoding of `b` (41_decode.md R86, R87). -/
theorem outcomeOf_decodeQuantum_eq_ok_iff_of_construct {x : TextQuantum} {b : ByteQuantum} :
    outcomeOf (decodeQuantum r x) = .ok b ↔ encodeQuantum a b = x := by
  simp only [outcomeOf_decodeQuantum_eq_ok_iff, decLane, readRlut_eq_valid_iff_of_construct h, encodeQuantum_eq_iff]

/-- The decoder gives the error exactly for a symbol outside the alphabet (60_exceptions.md R101). -/
theorem outcomeOf_decodeQuantum_eq_error_iff_of_construct {x : TextQuantum} :
    outcomeOf (decodeQuantum r x) = .error .invalidSyntax ↔ ∃ j : Lane, ∀ i, readAlphabet a i ≠ symbol x j := by
  simp only [outcomeOf_eq_error_iff, ne_eq, decodeQuantum_valid_iff_allSymbolsIn_of_construct h, AllSymbolsIn,
    not_forall, not_exists]

/-- Distinct quanta differ in a quintet, and there the texts differ, as no symbol stands at two indices
(40_encode.md R75). -/
theorem encodeQuantum_injective_of_construct {v w : ByteQuantum} (hvw : encodeQuantum a v = encodeQuantum a w) :
    v = w :=
  eq_of_quintets fun j => readAlphabet_injective_of_construct h <| by
    rw [← symbol_encodeQuantum, hvw, symbol_encodeQuantum]

end constructed

/-- Settles O16: the DEC keeps the alphabet, and the only text it decodes to `b` is the encoding of `b`
(`outcomeOf_decodeQuantum_eq_ok_iff_of_construct`). -/
theorem encodeOfAcceptedDecodeIsIdentity : Obligations.EncodeOfAcceptedDecodeIsIdentity := by
  unfold Obligations.EncodeOfAcceptedDecodeIsIdentity
  intro s x built
  refine ⟨_, exec_dec x s, fun b decoded => ⟨_, exec_enc b _, ?_⟩⟩
  rw [State.presentDec_decResult] at decoded
  rw [State.presentEnc_encOut, State.presentDec_alphabet]
  exact (outcomeOf_decodeQuantum_eq_ok_iff_of_construct built).mp decoded

/-- Settles O17: the encoder reaches exactly the texts of alphabet symbols (`allSymbolsIn_iff_exists_encodeQuantum`),
and no text twice (`encodeQuantum_injective_of_construct`). -/
theorem encodeIsBijectionOntoAlphabetText : Obligations.EncodeIsBijectionOntoAlphabetText := by
  unfold Obligations.EncodeIsBijectionOntoAlphabetText
  intro s x built
  simp only [exists_exec_enc_encOut_eq_iff, allSymbolsIn_iff_exists_encodeQuantum, true_and]
  rintro ⟨b, rfl⟩
  exact ⟨b, rfl, fun _ => encodeQuantum_injective_of_construct built⟩

/-- Settles O7, by the injectivity of the encoder's function (`encodeQuantum_injective_of_construct`). -/
theorem encodeIsInjective : Obligations.EncodeIsInjective := by
  unfold Obligations.EncodeIsInjective
  intro s t u v w built ht hu sameText
  rw [eq_presentEnc_of_exec_enc ht, eq_presentEnc_of_exec_enc hu, State.presentEnc_encOut,
    State.presentEnc_encOut] at sameText
  exact encodeQuantum_injective_of_construct built sameText

/-- Settles O19: an ENC leaves the outcome alone (`State.presentEnc_decResult`), and a DEC gives the error exactly for
an alien symbol (`outcomeOf_decodeQuantum_eq_error_iff_of_construct`). -/
theorem onlyAlienSymbolsFail : Obligations.OnlyAlienSymbolsFail := by
  unfold Obligations.OnlyAlienSymbolsFail
  intro s built
  refine ⟨fun v => ⟨_, exec_enc v s, s.presentEnc_decResult v⟩, fun x => ⟨_, exec_dec x s, ?_⟩⟩
  rw [State.presentDec_decResult]
  exact outcomeOf_decodeQuantum_eq_error_iff_of_construct built

end Sys2Proof.Machine
end

section
/-! PROOFS. All rejections are one outcome, and the lanes of an acceptance are apart (41_decode.md R82, R89;
60_exceptions.md R106). -/

namespace Sys2Proof.Machine

/-- A DEC that shows `dec_valid` at 0 put the one rejection on the decoder's outputs (60_exceptions.md R106). -/
theorem eq_rejection_of_exec_dec {x : TextQuantum} {s t : State} (h : exec (.dec x) s = .next t)
    (invalid : t.decValid = 0) : t = { s with decIn := x, decOut := decOutOnError, decValid := 0 } := by
  obtain rfl := eq_presentDec_of_exec_dec h
  rw [State.presentDec_decValid] at invalid
  rw [State.presentDec, decodeQuantum_eq_rejected_of_valid_eq_zero invalid, rejected]

/-- Settles O10: the next state shows the one rejection (`eq_rejection_of_exec_dec`), whose data output is zero. -/
theorem rejectionForcesDataOutputToZero : Obligations.RejectionForcesDataOutputToZero := by
  unfold Obligations.RejectionForcesDataOutputToZero
  intro s t x h invalid
  rw [eq_rejection_of_exec_dec h invalid, decOutOnError]

/-- Settles O20: both next states show the one rejection (`eq_rejection_of_exec_dec`), and an ENC leaves the decoder's
outcome alone. -/
theorem allRejectionsLookAlike : Obligations.AllRejectionsLookAlike := by
  unfold Obligations.AllRejectionsLookAlike
  constructor
  · intro s t u x y ht hu tInvalid uInvalid
    rw [eq_rejection_of_exec_dec ht tInvalid, eq_rejection_of_exec_dec hu uInvalid]
    exact ⟨outcomeOf_rejected, outcomeOf_rejected, rfl⟩
  · intro s t v h
    rw [eq_presentEnc_of_exec_enc h, State.presentEnc_decResult]

/-- Settles O13: lane j reads the same cell for equal symbols, and an accepted lane reads its quintet of `dec_out`
(`decLane_of_valid_eq_one`). -/
theorem decodeLanesAreIndependent : Obligations.DecodeLanesAreIndependent := by
  unfold Obligations.DecodeLanesAreIndependent
  intro s t u x y j ht hu tValid uValid sameSymbol
  obtain rfl := eq_presentDec_of_exec_dec ht
  obtain rfl := eq_presentDec_of_exec_dec hu
  have sameCell : decLane s.rlut x j = decLane s.rlut y j := congrArg (readRlut s.rlut) sameSymbol
  rw [decLane_of_valid_eq_one tValid, decLane_of_valid_eq_one uValid] at sameCell
  exact Entry.valid.inj sameCell

end Sys2Proof.Machine
end

section
/-! PROOFS. Frames and transactions: each transaction has one frame, and the frames that have a meaning are the
well-formed ones (30_encoding.md R62, R66, R68). -/

namespace Sys2Proof

/-- The values of defined bytes are the bytes. -/
theorem map_value_map_known (bs : List Byte) : (bs.map PortByte.known).map PortByte.value = bs := by
  simp [Function.comp_def, PortByte.known]

/-- Every wire of defined bytes is defined. -/
theorem defined_map_known (op : Op) (bs : List Byte) : Drive.defined { op := op, port := bs.map PortByte.known } := by
  simp [Drive.defined, PortByte.known]

/-- A frame is defined exactly if no wire of any byte is undefined (70_reset_and_hazards.md R127). -/
theorem Drive.defined_iff {d : Drive} : d.defined = true ↔ ∀ b ∈ d.port, b.undef = 0 := by
  simp [Drive.defined]

/-- Wires that are all defined carry their values and nothing else. -/
theorem map_known_map_value {bs : List PortByte} (defined : ∀ b ∈ bs, b.undef = 0) :
    (bs.map PortByte.value).map PortByte.known = bs := by
  rw [List.map_map]
  refine (List.map_congr_left fun b hb => ?_).trans bs.map_id
  simp [PortByte.known, ← defined b hb]

/-- A frame of defined bytes holds the transaction its bytes name. -/
theorem decode_map_known (op : Op) (bs : List Byte) :
    decode { op := op, port := bs.map PortByte.known } = decodeBytes op bs := by
  rw [decode, if_pos (defined_map_known op bs), map_value_map_known]

/-- With a wire undefined the frame is rejected for that, whatever its width (70_reset_and_hazards.md R127). -/
theorem decode_of_not_defined {d : Drive} (h : ¬ d.defined = true) : decode d = .error .undefinedBit :=
  if_neg h

/-- With all wires defined the frame holds what its values name. -/
theorem decode_of_defined {d : Drive} (h : d.defined = true) :
    decode d = decodeBytes d.op (d.port.map PortByte.value) :=
  if_pos h

/-- Only defined frames hold a transaction, the one their values name. -/
theorem decode_eq_ok_iff {d : Drive} {i : Instr} :
    decode d = .ok i ↔ d.defined = true ∧ decodeBytes d.op (d.port.map PortByte.value) = .ok i := by
  by_cases h : d.defined = true
  · simp [decode_of_defined h, h]
  · simp [decode_of_not_defined h, h]

/-- Bytes name an ENC exactly with op 0, and only the quantum they are the bytes of. -/
theorem decodeBytes_eq_ok_enc_iff {op : Op} {bs : List Byte} {v : ByteQuantum} :
    decodeBytes op bs = .ok (.enc v) ↔ op = 0 ∧ Machine.quantumOfBytes bs = some v := by
  unfold decodeBytes
  split <;> split <;> simp_all

/-- Bytes name a DEC exactly with op 1, and only the text they are the symbols of. -/
theorem decodeBytes_eq_ok_dec_iff {op : Op} {bs : List Byte} {x : TextQuantum} :
    decodeBytes op bs = .ok (.dec x) ↔ op = 1 ∧ Machine.textOfBytes bs = some x := by
  rcases BitVec.eq_zero_or_eq_one op with rfl | rfl <;>
  · unfold decodeBytes
    split <;> split <;> simp_all

/-- Bytes that name a transaction are those its frame carries. -/
theorem encode_of_decodeBytes {op : Op} {bs : List Byte} {i : Instr} (h : decodeBytes op bs = .ok i) :
    encode i = { op := op, port := bs.map PortByte.known } := by
  cases i with
  | enc v =>
    obtain ⟨rfl, hv⟩ := decodeBytes_eq_ok_enc_iff.mp h
    rw [Machine.quantumOfBytes_eq_some hv, encode]
  | dec x =>
    obtain ⟨rfl, hx⟩ := decodeBytes_eq_ok_dec_iff.mp h
    rw [Machine.textOfBytes_eq_some hx, encode]

/-- Five bytes are a byte quantum (20_memory.md R46). -/
theorem exists_quantumOfBytes_eq_some {bs : List Byte} (h : bs.length = 5) :
    ∃ v, Machine.quantumOfBytes bs = some v :=
  Option.isSome_iff_exists.mp (by rw [Machine.quantumOfBytes_isSome, h]; rfl)

/-- Eight bytes are a text quantum (20_memory.md R46). -/
theorem exists_textOfBytes_eq_some {bs : List Byte} (h : bs.length = 8) : ∃ x, Machine.textOfBytes bs = some x :=
  Option.isSome_iff_exists.mp (by rw [Machine.textOfBytes_isSome, h]; rfl)

/-- As many bytes as the port has name a transaction (20_memory.md R46). -/
theorem decodeBytes_of_length_eq {op : Op} {bs : List Byte} (fits : bs.length = portBytes op) :
    ∃ i, decodeBytes op bs = .ok i := by
  rcases BitVec.eq_zero_or_eq_one op with rfl | rfl
  · obtain ⟨v, hv⟩ := exists_quantumOfBytes_eq_some fits
    exact ⟨_, decodeBytes_eq_ok_enc_iff.mpr ⟨rfl, hv⟩⟩
  · obtain ⟨x, hx⟩ := exists_textOfBytes_eq_some fits
    exact ⟨_, decodeBytes_eq_ok_dec_iff.mpr ⟨rfl, hx⟩⟩

/-- Bytes name a transaction, or they are rejected for their number. -/
theorem decodeBytes_cases (op : Op) (bs : List Byte) :
    (∃ i, decodeBytes op bs = .ok i) ∨ decodeBytes op bs = .error .portWidth := by
  unfold decodeBytes
  split <;> split <;> simp

/-- The frame of every transaction is well-formed. -/
theorem wellFormed_encode (i : Instr) : (encode i).wellFormed = true :=
  match i with
  | .enc v => Laws.EncodesWellFormed.enc v
  | .dec x => Laws.EncodesWellFormed.dec x

/-- A well-formed frame is as wide as its port and defined. -/
theorem Drive.wellFormed_iff {d : Drive} :
    d.wellFormed = true ↔ d.port.length = portBytes d.op ∧ d.defined = true := by
  simp [Drive.wellFormed, Drive.fitsPort]

/-- Settles O32: the frame carries the quantum's own bytes, and these are the bytes of no other quantum. -/
theorem decodeOfEncodedFrame : Obligations.DecodeOfEncodedFrame := by
  unfold Obligations.DecodeOfEncodedFrame
  intro i
  cases i with
  | enc v =>
    rw [encode, decode_map_known]
    exact decodeBytes_eq_ok_enc_iff.mpr ⟨rfl, Machine.quantumOfBytes_quantumBytes v⟩
  | dec x =>
    rw [encode, decode_map_known]
    exact decodeBytes_eq_ok_dec_iff.mpr ⟨rfl, Machine.textOfBytes_textSymbols x⟩

/-- Settles O33: a frame that decodes is defined, so it is its bytes with no wire undefined, and the bytes are those
of the transaction (`encode_of_decodeBytes`). -/
theorem frameOfTransactionIsUnique : Obligations.FrameOfTransactionIsUnique := by
  unfold Obligations.FrameOfTransactionIsUnique
  intro d i h
  obtain ⟨defined, named⟩ := decode_eq_ok_iff.mp h
  rw [encode_of_decodeBytes named, map_known_map_value (Drive.defined_iff.mp defined)]

/-- The frames that hold a transaction are the well-formed ones (30_encoding.md R68). -/
theorem wellFormed_iff_decode {d : Drive} : d.wellFormed = true ↔ ∃ i, decode d = .ok i := by
  constructor
  · rw [Drive.wellFormed_iff]
    rintro ⟨fits, defined⟩
    rw [decode_of_defined defined]
    exact decodeBytes_of_length_eq ((List.length_map _).trans fits)
  · rintro ⟨i, h⟩
    exact frameOfTransactionIsUnique d i h ▸ wellFormed_encode i

/-- Settles O34: well-formedness is decodability (`wellFormed_iff_decode`), and an ENC's op is 0, a DEC's 1. -/
theorem decoderTotalOnWellFormedFrames : Obligations.DecoderTotalOnWellFormedFrames := by
  unfold Obligations.DecoderTotalOnWellFormedFrames
  intro d
  refine ⟨wellFormed_iff_decode, fun wf op => ?_, fun wf op => ?_⟩
  all_goals
    obtain ⟨i, h⟩ := wellFormed_iff_decode.mp wf
    have framed := congrArg Drive.op (frameOfTransactionIsUnique d i h)
    rw [op] at framed
  · cases i with
    | enc v => exact ⟨v, h⟩
    | dec x => cases framed
  · cases i with
    | enc v => cases framed
    | dec x => exact ⟨x, h⟩

/-- A defined frame that is not as wide as its port is rejected for its width (20_memory.md R46). -/
theorem decode_of_length_ne {d : Drive} (defined : d.defined = true) (misfit : d.port.length ≠ portBytes d.op) :
    decode d = .error .portWidth := by
  rw [decode_of_defined defined]
  refine (decodeBytes_cases _ _).resolve_left fun named => misfit ?_
  rw [← decode_of_defined defined] at named
  obtain ⟨fits, -⟩ := Drive.wellFormed_iff.mp (wellFormed_iff_decode.mpr named)
  exact fits

/-- Settles O35, by computation of each frame. -/
theorem writtenFramesDecode : Obligations.WrittenFramesDecode := by
  unfold Obligations.WrittenFramesDecode
  decide

end Sys2Proof
end

section
/-! PROOFS. One step, equation by equation, and what any number of steps keeps (10_state.md R33, 60_exceptions.md
R103, 70_reset_and_hazards.md R121, R126). -/

namespace Sys2Proof.Machine

/-- With nothing pending a step is idle (30_encoding.md R56). -/
theorem step_of_pending_nil {s : State} (h : s.pending = []) : step s = .next s := by
  simp [step, h]

/-- A frame that decodes is taken and its transaction run. -/
theorem step_of_decode_ok {s : State} {d : Drive} {ds : List Drive} {i : Instr} (hp : s.pending = d :: ds)
    (h : decode d = .ok i) : step s = exec i (s.withPending ds) := by
  simp [step, hp, h]

/-- A frame that does not decode is refused for the decoder's reason. -/
theorem step_of_decode_error {s : State} {d : Drive} {ds : List Drive} {e : DecodeError} (hp : s.pending = d :: ds)
    (h : decode d = .error e) : step s = .refused (refusalOf e) := by
  simp [step, hp, h]

/-- Settles O38: the step's equation for a frame that decodes (`step_of_decode_ok`). -/
theorem stepRunsDecodedTransaction : Obligations.StepRunsDecodedTransaction := by
  unfold Obligations.StepRunsDecodedTransaction
  exact fun _ _ _ _ hp h => step_of_decode_ok hp h

/-- Settles O39: the step's equation for an empty list (`step_of_pending_nil`). -/
theorem heldInputKeepsOutputs : Obligations.HeldInputKeepsOutputs := by
  unfold Obligations.HeldInputKeepsOutputs
  exact fun _ => step_of_pending_nil

/-- Settles O40: the decoder rejects the frame for its undefined wire (`decode_of_not_defined`), and the step passes
that on. -/
theorem undefinedInputIsRefused : Obligations.UndefinedInputIsRefused := by
  unfold Obligations.UndefinedInputIsRefused
  rintro s d ds hp ⟨b, hb, undefined⟩
  have notDefined : ¬ d.defined = true := fun h => undefined (Drive.defined_iff.mp h b hb)
  rw [step_of_decode_error hp (decode_of_not_defined notDefined), refusalOf]

/-- Settles O41: the decoder rejects the frame for its width (`decode_of_length_ne`), and the step passes that on. -/
theorem misfitFrameIsRefused : Obligations.MisfitFrameIsRefused := by
  unfold Obligations.MisfitFrameIsRefused
  intro s d ds hp defined misfit
  rw [step_of_decode_error hp (decode_of_length_ne (Drive.defined_iff.mpr defined) misfit), refusalOf]

/-- A step writes no table (10_state.md R33). -/
theorem step_keeps_tables {s t : State} (h : step s = .next t) : t.alphabet = s.alphabet ∧ t.rlut = s.rlut := by
  rcases step_cases h with ⟨-, rfl⟩ | ⟨_, _, _, -, -, rfl⟩ | ⟨_, _, _, -, -, rfl⟩ <;> exact ⟨rfl, rfl⟩

/-- What the host is going to present shows on no port. -/
theorem Settled.withPending {s : State} (h : s.Settled) (ds : List Drive) : (s.withPending ds).Settled := h

/-- A step leaves the ports settled: the idle one as they are, the other two by settling their own unit's. -/
theorem step_settled {s t : State} (settled : s.Settled) (h : step s = .next t) : t.Settled := by
  rcases step_cases h with ⟨-, rfl⟩ | ⟨_, ds, v, -, -, rfl⟩ | ⟨_, ds, x, -, -, rfl⟩
  · exact settled
  · exact Settled.presentEnc (Settled.withPending settled ds) v
  · exact Settled.presentDec (Settled.withPending settled ds) x

/-- A block at power-up is settled: its outputs are the functions of its inputs from power-up on
(70_reset_and_hazards.md R121). -/
theorem powerUp_settled (a : ForwardTable) (r : ReverseTable) : (State.powerUp a r).Settled := ⟨rfl, rfl, rfl⟩

/-- Settles O42: the tables of the reset state are the constants, and a block at power-up is settled
(`powerUp_settled`). -/
theorem invariantHoldsAtReset : Obligations.InvariantHoldsAtReset := by
  unfold Obligations.InvariantHoldsAtReset
  exact ⟨⟨rfl, rfl⟩, powerUp_settled fixedAlphabet fixedReverseTable⟩

/-- Settles O43: a step writes no table (`step_keeps_tables`) and leaves the ports settled (`step_settled`). -/
theorem stepKeepsTablesAndSettledPorts : Obligations.StepKeepsTablesAndSettledPorts := by
  unfold Obligations.StepKeepsTablesAndSettledPorts
  rintro s t ⟨⟨alphabetFixed, rlutFixed⟩, settled⟩ h
  obtain ⟨alphabetKept, rlutKept⟩ := step_keeps_tables h
  exact ⟨⟨alphabetKept.trans alphabetFixed, rlutKept.trans rlutFixed⟩, step_settled settled h⟩

/-- A transaction leaves the host's list alone. -/
theorem exec_keeps_pending {i : Instr} {s t : State} (h : exec i s = .next t) : t.pending = s.pending := by
  cases i with
  | enc v => rw [eq_presentEnc_of_exec_enc h, State.presentEnc_pending]
  | dec x => rw [eq_presentDec_of_exec_dec h, State.presentDec_pending]

/-- With well-formed frames pending a step answers next, and the frames still pending are well-formed. -/
theorem step_of_pendingWellFormed {s : State} (wf : s.PendingWellFormed) :
    ∃ t, step s = .next t ∧ t.PendingWellFormed := by
  cases hp : s.pending with
  | nil => exact ⟨s, step_of_pending_nil hp, wf⟩
  | cons d ds =>
    have wfCons : ∀ d' ∈ d :: ds, d'.wellFormed = true := hp ▸ wf
    obtain ⟨wfFirst, wfRest⟩ := List.forall_mem_cons.mp wfCons
    obtain ⟨i, decoded⟩ := wellFormed_iff_decode.mp wfFirst
    obtain ⟨t, completes⟩ := exec_completes i (s.withPending ds)
    have taken : t.pending = ds := exec_keeps_pending completes
    exact ⟨t, (step_of_decode_ok hp decoded).trans completes, by rwa [State.PendingWellFormed, taken]⟩

/-- Settles O44, by induction on the number of steps: each answers next and keeps the host's list well-formed
(`step_of_pendingWellFormed`). -/
theorem wellFormedInputsNeverStop : Obligations.WellFormedInputsNeverStop := by
  unfold Obligations.WellFormedInputsNeverStop
  intro k
  induction k with
  | zero => exact fun s _ => ⟨s, rfl⟩
  | succ k ih =>
    intro s wf
    obtain ⟨t, stepped, wfNext⟩ := step_of_pendingWellFormed wf
    rw [run_succ_of_step stepped]
    exact ih t wfNext

/-- No number of steps writes a table (10_state.md R33). -/
theorem run_keeps_tables {k : Nat} {s t : State} (h : Host.Core.run core k s = .next t) :
    t.alphabet = s.alphabet ∧ t.rlut = s.rlut := by
  induction k generalizing s with
  | zero =>
    cases h
    exact ⟨rfl, rfl⟩
  | succ k ih =>
    obtain ⟨m, stepped, ran⟩ := step_of_run_succ h
    obtain ⟨alphabetKept, rlutKept⟩ := step_keeps_tables stepped
    obtain ⟨alphabetKept', rlutKept'⟩ := ih ran
    exact ⟨alphabetKept'.trans alphabetKept, rlutKept'.trans rlutKept⟩

/-- Settles O45: the run writes no table (`run_keeps_tables`), and the outputs are functions of the input and the
unit's table. -/
theorem outcomeIndependentOfHistory : Obligations.OutcomeIndependentOfHistory := by
  unfold Obligations.OutcomeIndependentOfHistory
  intro k s t h
  obtain ⟨alphabetKept, rlutKept⟩ := run_keeps_tables h
  constructor
  · intro v
    exact ⟨_, _, exec_enc v s, exec_enc v t,
      encOut_eq_of_exec_enc_of_alphabet_eq alphabetKept (exec_enc v s) (exec_enc v t)⟩
  · intro x
    exact ⟨_, _, exec_dec x s, exec_dec x t,
      decOutputs_eq_of_exec_dec_of_rlut_eq rlutKept (exec_dec x s) (exec_dec x t)⟩

/-- Presenting to the two units commutes: neither reads what the other writes (10_state.md R34). -/
theorem State.presentEnc_presentDec (s : State) (v : ByteQuantum) (x : TextQuantum) :
    (s.presentEnc v).presentDec x = (s.presentDec x).presentEnc v := rfl

/-- Settles O37: each order completes, and the two states are one (`State.presentEnc_presentDec`). -/
theorem unitsCommute : Obligations.UnitsCommute := by
  unfold Obligations.UnitsCommute
  intro s v x
  refine ⟨_, _, _, exec_enc v s, exec_dec x _, exec_dec x s, ?_⟩
  rw [exec_enc, State.presentEnc_presentDec]

end Sys2Proof.Machine
end

section
/-! PROOFS. The wrapper's forms as transactions of the block, and that parsing and formatting are inverse to each other
(00_scope.md R14 to R16, 30_encoding.md R64; 95_test_vectors.md V-PROP-1, V-PROP-2). -/

namespace Sys2Proof.Machine

/-- The text of the 10-byte form: two text quanta joined by the separator (00_scope.md R14). -/
def joinTexts (x y : TextQuantum) : List Byte := textSymbols x ++ separator :: textSymbols y

@[simp] theorem length_joinTexts (x y : TextQuantum) : (joinTexts x y).length = 17 := rfl

/-- Eight bytes are the symbols of the text quantum they make (20_memory.md R42). -/
theorem exists_eq_textSymbols {bs : List Byte} (h : bs.length = 8) : ∃ x, bs = textSymbols x := by
  obtain ⟨x, hx⟩ := exists_textOfBytes_eq_some h
  exact ⟨x, textOfBytes_eq_some hx⟩

/-- A text passes the wrapper's checks exactly if it is two chunks of eight symbols around the separator. -/
theorem checks_iff_exists_joinTexts {text : List Byte} :
    text.length = 17 ∧ text[8]? = some separator ↔ ∃ x y, text = joinTexts x y := by
  constructor
  · rintro ⟨len, sep⟩
    obtain ⟨x, hx⟩ := exists_eq_textSymbols (bs := text.take 8) (by simp [len])
    obtain ⟨y, hy⟩ := exists_eq_textSymbols (bs := text.drop 9) (by simp [len])
    obtain ⟨inside, hsep⟩ := List.getElem?_eq_some_iff.mp sep
    refine ⟨x, y, ?_⟩
    calc text = text.take 8 ++ text.drop 8 := (List.take_append_drop 8 text).symm
      _ = text.take 8 ++ text[8] :: text.drop 9 := by rw [List.drop_eq_getElem_cons inside]
      _ = joinTexts x y := by rw [hx, hsep, hy, joinTexts]
  · rintro ⟨x, y, rfl⟩
    exact ⟨rfl, rfl⟩

/-- With a check failed the wrapper gives its own error, without a transaction (30_encoding.md R64). -/
theorem parseLarge_of_checks_fail {text : List Byte} (s : State)
    (h : ¬ (text.length = 17 ∧ text[8]? = some separator)) :
    parseLarge text s = .next (.error .invalidSyntax, s) :=
  if_neg h

/-- With the checks passed `PARSE10` is two DEC, their outcomes joined (30_encoding.md R64). -/
theorem parseLarge_joinTexts (x y : TextQuantum) (s : State) :
    parseLarge (joinTexts x y) s =
      .next (joinResults (outcomeOf (decodeQuantum s.rlut x)) (outcomeOf (decodeQuantum s.rlut y)),
        (s.presentDec x).presentDec y) := by
  have take : (joinTexts x y).take 8 = textSymbols x := rfl
  have drop : (joinTexts x y).drop 9 = textSymbols y := rfl
  rw [parseLarge, if_pos (checks_iff_exists_joinTexts.mpr ⟨x, y, rfl⟩), take, drop]
  simp [parseSmall_textSymbols, andThen]

/-- Two outcomes join to an identifier exactly if both are values, and then to these two (30_encoding.md R64). -/
theorem joinResults_eq_ok_iff {p q : Except ErrorKind ByteQuantum} {i : Identifier} :
    joinResults p q = .ok i ↔ ∃ b c, p = .ok b ∧ q = .ok c ∧ i = .large b c := by
  cases p <;> cases q <;> simp [joinResults, eq_comm]

/-- An error of either chunk is the error of the whole (30_encoding.md R64). -/
theorem joinResults_of_error {p q : Except ErrorKind ByteQuantum}
    (h : p = .error .invalidSyntax ∨ q = .error .invalidSyntax) : joinResults p q = .error .invalidSyntax := by
  rcases h with rfl | rfl
  · rfl
  · cases p <;> rfl

/-- One outcome is the 5-byte form exactly if it is a value. -/
theorem map_small_eq_ok_iff {p : Except ErrorKind ByteQuantum} {i : Identifier} :
    p.map Identifier.small = .ok i ↔ ∃ b, p = .ok b ∧ i = .small b := by
  cases p <;> simp [Except.map, eq_comm]

/-- Parsing eight characters is one DEC (00_scope.md R16). -/
theorem parseIdentifier_textSymbols (x : TextQuantum) (s : State) :
    parseIdentifier (textSymbols x) s =
      .next ((outcomeOf (decodeQuantum s.rlut x)).map Identifier.small, s.presentDec x) := by
  rw [parseIdentifier, if_pos (length_textSymbols x), parseSmall_textSymbols, andThen]

/-- Parsing any other number of characters is the attempt at the 10-byte form (00_scope.md R16). -/
theorem parseIdentifier_of_length_ne {text : List Byte} (s : State) (h : text.length ≠ 8) :
    parseIdentifier text s = parseLarge text s :=
  if_neg h

/-- Parsing two chunks around the separator is the two DEC of the 10-byte form. -/
theorem parseIdentifier_joinTexts (x y : TextQuantum) (s : State) :
    parseIdentifier (joinTexts x y) s =
      .next (joinResults (outcomeOf (decodeQuantum s.rlut x)) (outcomeOf (decodeQuantum s.rlut y)),
        (s.presentDec x).presentDec y) := by
  rw [parseIdentifier_of_length_ne s (by simp), parseLarge_joinTexts]

/-- All that parsing can do: one DEC of a text of eight characters, two DEC of a text that passes the wrapper's checks,
or the wrapper's own error without a transaction (00_scope.md R16). -/
theorem parseIdentifier_cases (text : List Byte) (s : State) :
    (∃ x, text = textSymbols x ∧ parseIdentifier text s =
      .next ((outcomeOf (decodeQuantum s.rlut x)).map Identifier.small, s.presentDec x)) ∨
    (∃ x y, text = joinTexts x y ∧ parseIdentifier text s =
      .next (joinResults (outcomeOf (decodeQuantum s.rlut x)) (outcomeOf (decodeQuantum s.rlut y)),
        (s.presentDec x).presentDec y)) ∨
    parseIdentifier text s = .next (.error .invalidSyntax, s) := by
  by_cases small : text.length = 8
  · obtain ⟨x, rfl⟩ := exists_eq_textSymbols small
    exact .inl ⟨x, rfl, parseIdentifier_textSymbols x s⟩
  · rw [parseIdentifier_of_length_ne s small]
    by_cases checks : text.length = 17 ∧ text[8]? = some separator
    · obtain ⟨x, y, rfl⟩ := checks_iff_exists_joinTexts.mp checks
      exact .inr (.inl ⟨x, y, rfl, parseLarge_joinTexts x y s⟩)
    · exact .inr (.inr (parseLarge_of_checks_fail s checks))

/-- Settles O47: the text is the encodings of the quanta, which the decoder undoes
(`decodeQuantum_encodeQuantum_of_construct`), and the lengths 8 and 17 lead the parser to the form formatted. -/
theorem parseOfFormatIsIdentity : Obligations.ParseOfFormatIsIdentity := by
  unfold Obligations.ParseOfFormatIsIdentity
  intro i s built
  have undo : ∀ b, outcomeOf (decodeQuantum s.rlut (encodeQuantum s.alphabet b)) = .ok b := fun b =>
    (outcomeOf_decodeQuantum_eq_ok_iff_of_construct built).mpr rfl
  cases i with
  | small b =>
    have parsed := parseIdentifier_textSymbols (encodeQuantum s.alphabet b) (s.presentEnc b)
    rw [State.presentEnc_rlut, undo, Except.map] at parsed
    exact ⟨_, _, _, formatSmall_eq b s, parsed⟩
  | large b c =>
    have parsed := parseIdentifier_joinTexts (encodeQuantum s.alphabet b) (encodeQuantum s.alphabet c)
      ((s.presentEnc b).presentEnc c)
    rw [State.presentEnc_rlut, State.presentEnc_rlut, undo, undo, joinResults] at parsed
    exact ⟨_, _, _, formatLarge_eq b c s, parsed⟩

/-- Settles O48: a text that parses is one or two chunks that the decoder accepts (`parseIdentifier_cases`), and each
is the encoding of its bytes (`outcomeOf_decodeQuantum_eq_ok_iff_of_construct`). -/
theorem formatOfParseIsIdentity : Obligations.FormatOfParseIsIdentity := by
  unfold Obligations.FormatOfParseIsIdentity
  intro text i s t built parsed
  have chunk : ∀ x b, outcomeOf (decodeQuantum s.rlut x) = .ok b → encodeQuantum s.alphabet b = x := fun _ _ =>
    (outcomeOf_decodeQuantum_eq_ok_iff_of_construct built).mp
  rcases parseIdentifier_cases text s with ⟨x, rfl, result⟩ | ⟨x, y, rfl, result⟩ | result
  all_goals
    obtain ⟨value, rfl⟩ := Prod.mk.inj (Host.Outcome.next.inj (result.symm.trans parsed))
  · obtain ⟨b, decoded, rfl⟩ := map_small_eq_ok_iff.mp value
    have formatted := formatSmall_eq b (s.presentDec x)
    rw [State.presentDec_alphabet, chunk x b decoded] at formatted
    exact ⟨_, formatted⟩
  · obtain ⟨b, c, xDecoded, yDecoded, rfl⟩ := joinResults_eq_ok_iff.mp value
    have formatted := formatLarge_eq b c ((s.presentDec x).presentDec y)
    rw [State.presentDec_alphabet, State.presentDec_alphabet, chunk x b xDecoded, chunk y c yDecoded] at formatted
    exact ⟨_, formatted⟩
  · cases value

/-- Settles O46: the forms' equations are `formatLarge_eq`, `parseLarge_of_checks_fail` and `parseLarge_joinTexts`, and
the joined outcome is a value exactly if both are. -/
theorem compositeFormsExpandToTransactions : Obligations.CompositeFormsExpandToTransactions := by
  unfold Obligations.CompositeFormsExpandToTransactions
  refine ⟨fun b c s => ?_, fun text s checks => ?_, fun x y s => ?_⟩
  · refine ⟨_, _, exec_enc b s, exec_enc c _, ?_⟩
    simp [formatLarge_eq, separator]
  · exact parseLarge_of_checks_fail s checks
  · have text : textSymbols x ++ [0x2D] ++ textSymbols y = joinTexts x y := rfl
    refine ⟨_, _, _, exec_dec x s, exec_dec y _, text ▸ parseLarge_joinTexts x y s, ?_, ?_⟩
    · intro b c xOk yOk
      exact joinResults_eq_ok_iff.mpr ⟨b, c, xOk, yOk, rfl⟩
    · exact joinResults_of_error

end Sys2Proof.Machine
end

section
/-! PROOFS. The fixed alphabet and its reverse table: the facts of 10_state.md R21 to R28 about their entries, and when
the construction succeeds. -/

namespace Sys2Proof.Machine

/-- The construction from the fixed alphabet gives the grid (10_state.md R24, R25). The entries are compared as lists,
which the kernel does much faster than it compares the tables. -/
theorem construct_fixedAlphabet : construct fixedAlphabet = some fixedReverseTable := by
  have sameEntries : (construct fixedAlphabet).map Vector.toList = some fixedReverseTable.toList := by
    decide +kernel
  exact Option.map_injective (fun _ _ => Vector.toList_inj.mp) sameEntries

/-- Elaboration of an alphabet that passes the construction is the block at power-up (10_state.md R25). -/
theorem elaborate_of_construct {a : ForwardTable} {r : ReverseTable} (h : construct a = some r) :
    elaborate a = .next (State.powerUp a r) := by
  simp [elaborate, h]

/-- Elaboration refuses exactly the alphabets on which the construction fails (10_state.md R26). -/
theorem elaborate_eq_refused_iff {a : ForwardTable} :
    elaborate a = .refused .duplicateSymbol ↔ construct a = none := by
  cases h : construct a <;> simp [elaborate, h]

/-- An alphabet whose symbols are distinct passes the construction (10_state.md R26). -/
theorem construct_isSome_of_injective {a : ForwardTable}
    (distinct : ∀ i k, readAlphabet a i = readAlphabet a k → i = k) : ∃ r, construct a = some r := by
  have nodup : a.toList.Nodup := by
    refine List.nodup_iff_injective_getElem.mpr fun m n same => ?_
    have hm : m.val < 2 ^ 5 := by simpa using m.isLt
    have hn : n.val < 2 ^ 5 := by simpa using n.isLt
    have index := distinct (BitVec.ofNatLT m hm) (BitVec.ofNatLT n hn) same
    exact Fin.ext (by simpa using congrArg BitVec.toNat index)
  exact constructFrom_isSome nodup fun c _ => readRlut_blankTable c

/-- The construction fails exactly on a duplicate: a table it builds tells the indices apart, and distinct symbols let
every write succeed (10_state.md R26). -/
theorem construct_eq_none_iff {a : ForwardTable} :
    construct a = none ↔ ∃ i k, i ≠ k ∧ readAlphabet a i = readAlphabet a k := by
  constructor
  · intro fails
    by_contra noDuplicate
    push Not at noDuplicate
    obtain ⟨r, h⟩ := construct_isSome_of_injective fun i k same => not_imp_not.mp (noDuplicate i k) same
    rw [fails] at h
    cases h
  · rintro ⟨i, k, different, same⟩
    refine Option.eq_none_iff_forall_ne_some.mpr fun r h => different ?_
    exact readAlphabet_injective_of_construct h same

/-- Settles O25: the construction fails exactly on a duplicate (`construct_eq_none_iff`), and elaboration refuses
exactly then (`elaborate_eq_refused_iff`). -/
theorem constructionFailsExactlyOnDuplicate : Obligations.ConstructionFailsExactlyOnDuplicate := by
  unfold Obligations.ConstructionFailsExactlyOnDuplicate
  refine ⟨fun a => ⟨construct_eq_none_iff, elaborate_eq_refused_iff.trans construct_eq_none_iff⟩, ?_⟩
  rw [construct_fixedAlphabet, Option.isSome_some]

/-- Settles O24: the construction gives the grid (`construct_fixedAlphabet`), and the block at power-up with these
tables is the reset state. -/
theorem fixedAlphabetElaborates : Obligations.FixedAlphabetElaborates := by
  unfold Obligations.FixedAlphabetElaborates
  exact ⟨construct_fixedAlphabet, elaborate_of_construct construct_fixedAlphabet⟩

/-- Settles O21, by computation of the 32 bytes. -/
theorem alphabetTableSpellsTheString : Obligations.AlphabetTableSpellsTheString := by
  unfold Obligations.AlphabetTableSpellsTheString
  decide

/-- A cell holds the sentinel exactly if its byte is no symbol of the alphabet (10_state.md R27). -/
theorem readRlut_eq_invalid_iff_of_construct {a : ForwardTable} {r : ReverseTable} (h : construct a = some r)
    {c : Byte} : readRlut r c = .invalid ↔ ∀ i, readAlphabet a i ≠ c := by
  refine ⟨?_, readRlut_eq_invalid_of_construct h⟩
  rintro invalid i rfl
  rw [readRlut_readAlphabet_of_construct h] at invalid
  cases invalid

/-- The bytes that are no symbol of the fixed alphabet are the listed ranges, by computation for the 256 bytes
(10_state.md R24, 30_encoding.md R65). -/
theorem alien_fixedAlphabet_iff (c : Byte) : (∀ i, readAlphabet fixedAlphabet i ≠ c) ↔
    c.toNat ≤ 0x2F ∨ (0x3A ≤ c.toNat ∧ c.toNat ≤ 0x60) ∨ c ∈ [(0x69 : Byte), 0x6C, 0x6F, 0x75] ∨ 0x7B ≤ c.toNat := by
  rw [← not_exists, ← mem_toList_iff_readAlphabet]
  revert c
  decide +kernel

/-- Settles O23: the sentinel stands exactly in the cells of the bytes that are no symbol
(`readRlut_eq_invalid_iff_of_construct`), and these are the listed ranges (`alien_fixedAlphabet_iff`). -/
theorem invalidEntriesAreTheListedRanges : Obligations.InvalidEntriesAreTheListedRanges := by
  unfold Obligations.InvalidEntriesAreTheListedRanges
  exact fun c => (readRlut_eq_invalid_iff_of_construct construct_fixedAlphabet).trans (alien_fixedAlphabet_iff c)

/-- The symbols at the indices 0 to 9 are the digits in order (10_state.md R23). -/
theorem readAlphabet_fixedAlphabet_digit : ∀ i : Quintet, i.toNat ≤ 9 →
    (readAlphabet fixedAlphabet i).toNat = 0x30 + i.toNat := by
  decide

/-- The symbols at the indices from 10 on are lowercase letters (10_state.md R23). -/
theorem readAlphabet_fixedAlphabet_letter : ∀ i : Quintet, 10 ≤ i.toNat →
    0x61 ≤ (readAlphabet fixedAlphabet i).toNat ∧ (readAlphabet fixedAlphabet i).toNat ≤ 0x7A := by
  decide

/-- The symbols stand in the order of their codes (10_state.md R23). -/
theorem readAlphabet_fixedAlphabet_lt (i k : Quintet) (hik : i.toNat < k.toNat) :
    (readAlphabet fixedAlphabet i).toNat < (readAlphabet fixedAlphabet k).toNat := by
  have sorted : fixedAlphabet.toList.Pairwise fun c d => c.toNat < d.toNat := by decide
  rw [readAlphabet_eq_getElem, readAlphabet_eq_getElem]
  exact List.pairwise_iff_getElem.mp sorted _ _ _ _ hik

/-- Settles O22: order, digits and letters are read off the table, and the letters left out are the alien bytes of the
letters' range (`alien_fixedAlphabet_iff`). -/
theorem alphabetIsDistinctOrderedLowercase : Obligations.AlphabetIsDistinctOrderedLowercase := by
  unfold Obligations.AlphabetIsDistinctOrderedLowercase
  refine ⟨readAlphabet_fixedAlphabet_lt, readAlphabet_fixedAlphabet_digit, readAlphabet_fixedAlphabet_letter, ?_⟩
  intro c fromA toZ
  rw [alien_fixedAlphabet_iff]
  constructor
  · rintro (low | ⟨-, low⟩ | omitted | high)
    · omega
    · omega
    · exact omitted
    · omega
  · exact fun omitted => .inr (.inr (.inl omitted))

/-- The upper bit of an entry's six is its validity (10_state.md R28). -/
theorem extractLsb'_five_entryBits (e : Entry) : (entryBits e).extractLsb' 5 1 = entryOk e := by
  cases e with
  | invalid => rfl
  | valid v => exact BitVec.extractLsb'_append_eq_left

/-- The lower five bits of an entry's six are its value (10_state.md R28). -/
theorem extractLsb'_zero_entryBits (e : Entry) : (entryBits e).extractLsb' 0 5 = entryValue e := by
  cases e with
  | invalid => rfl
  | valid v => exact BitVec.extractLsb'_append_eq_right

/-- An entry is its validity and its value (10_state.md R28). -/
theorem eq_of_entryOk_of_entryValue {e f : Entry} (ok : entryOk e = entryOk f) (value : entryValue e = entryValue f) :
    e = f := by
  cases e <;> cases f <;> simp_all [entryOk, entryValue]

/-- Settles O27: the six bits are the validity and the value, and the two are the entry
(`eq_of_entryOk_of_entryValue`). -/
theorem entryBitsKeepSentinelApart : Obligations.EntryBitsKeepSentinelApart := by
  unfold Obligations.EntryBitsKeepSentinelApart
  refine ⟨fun v => ⟨extractLsb'_five_entryBits (.valid v), extractLsb'_zero_entryBits (.valid v)⟩, rfl, ?_⟩
  intro e f sameBits
  apply eq_of_entryOk_of_entryValue
  · rw [← extractLsb'_five_entryBits, sameBits, extractLsb'_five_entryBits]
  · rw [← extractLsb'_zero_entryBits, sameBits, extractLsb'_zero_entryBits]

end Sys2Proof.Machine
end

section
/-! PROOFS. The symbols of an ENC in terms of the quantum's bits, its bytes and its number (40_encode.md R70 to R73,
20_memory.md R40, 30_encoding.md R61). -/

namespace Sys2Proof.Machine

/-- The number of two words side by side. -/
theorem toNat_append_eq_mul_add {m n : Nat} (x : BitVec m) (y : BitVec n) :
    (x ++ y).toNat = x.toNat * 2 ^ n + y.toNat := by
  rw [BitVec.toNat_append, ← Nat.shiftLeft_add_eq_or_of_lt y.isLt, Nat.shiftLeft_eq]

/-- A field of a field is a field of the word. -/
theorem extractLsb'_extractLsb' {w : Nat} (x : BitVec w) {start len start' len' : Nat} (h : start' + len' ≤ len) :
    (x.extractLsb' start len).extractLsb' start' len' = x.extractLsb' (start + start') len' := by
  apply BitVec.eq_of_getLsbD_eq
  intro i hi
  have inside : start' + i < len := by omega
  simp [hi, inside, Nat.add_assoc]

/-- The low bits of a byte and the high bits of the byte after it are one field that straddles their boundary
(30_encoding.md R61). -/
theorem append_fields_of_adjacent_bytes (v : ByteQuantum) (low : Nat) {m n k : Nat} (hm : m ≤ 8) (hk : k + n = 8) :
    (v.extractLsb' (low + 8) 8).extractLsb' 0 m ++ (v.extractLsb' low 8).extractLsb' k n =
      v.extractLsb' (low + k) (m + n) := by
  rw [extractLsb'_extractLsb' v (by omega), extractLsb'_extractLsb' v (by omega),
    BitVec.extractLsb'_append_extractLsb'_eq_extractLsb' (by omega)]

/-- A byte quantum is its bytes, B0 first (00_scope.md R12). -/
theorem packBytes_quantumByte (v : ByteQuantum) :
    packBytes (quantumByte v 0) (quantumByte v 1) (quantumByte v 2) (quantumByte v 3) (quantumByte v 4) = v :=
  Option.some.inj (quantumOfBytes_quantumBytes v)

/-- The number of a byte quantum, B0 the most significant (20_memory.md R40). -/
theorem toNat_packBytes (b0 b1 b2 b3 b4 : Byte) : (packBytes b0 b1 b2 b3 b4).toNat =
    b0.toNat * 2 ^ 32 + b1.toNat * 2 ^ 24 + b2.toNat * 2 ^ 16 + b3.toNat * 2 ^ 8 + b4.toNat := by
  simp only [packBytes, toNat_append_eq_mul_add]
  omega

/-- Settles O31: each field of a byte is a field of the quantum (`extractLsb'_extractLsb'`), and two fields side by
side are one. -/
theorem quintetsInTermsOfBytes : Obligations.QuintetsInTermsOfBytes := by
  unfold Obligations.QuintetsInTermsOfBytes
  intro v b hb
  simp only [hb, quintet]
  refine ⟨?_, ?_, ?_, ?_, ?_, ?_, ?_, ?_⟩
  · exact Eq.symm (extractLsb'_extractLsb' v (by decide))
  · exact Eq.symm (append_fields_of_adjacent_bytes v 24 (by decide) (by decide))
  · exact Eq.symm (extractLsb'_extractLsb' v (by decide))
  · exact Eq.symm (append_fields_of_adjacent_bytes v 16 (by decide) (by decide))
  · exact Eq.symm (append_fields_of_adjacent_bytes v 8 (by decide) (by decide))
  · exact Eq.symm (extractLsb'_extractLsb' v (by decide))
  · exact Eq.symm (append_fields_of_adjacent_bytes v 0 (by decide) (by decide))
  · exact Eq.symm (extractLsb'_extractLsb' v (by decide))

/-- Settles O28: the number of a packed quantum is read off its bytes (`toNat_packBytes`), the example is computed, and
lane 0 of each unit ties S0 to the top quintet. -/
theorem quantaAreBigEndian : Obligations.QuantaAreBigEndian := by
  unfold Obligations.QuantaAreBigEndian
  refine ⟨fun b0 b1 b2 b3 b4 => ?_, fun v => ?_, fun s fixed => ?_, fun s v => ?_, fun s t x h accepts => ?_⟩
  · exact ⟨_, decodeBytes_enc_of_quantumOfBytes rfl, toNat_packBytes b0 b1 b2 b3 b4⟩
  · rw [← toNat_packBytes, packBytes_quantumByte]
  · refine ⟨_, _, decodeBytes_enc_of_quantumOfBytes rfl, exec_enc _ s, ?_⟩
    rw [State.presentEnc_encOut, fixed]
    decide
  · exact ⟨_, exec_enc v s, symbol_encodeQuantum s.alphabet v 0⟩
  · obtain rfl := eq_presentDec_of_exec_dec h
    exact decLane_of_valid_eq_one accepts 0

/-- Settles O5: symbol j is the alphabet's for quintet j (`symbol_encodeQuantum`). -/
theorem encodeLanesAreIndependent : Obligations.EncodeLanesAreIndependent := by
  unfold Obligations.EncodeLanesAreIndependent
  intro s t u v w j ht hu sameQuintet
  rw [eq_presentEnc_of_exec_enc ht, eq_presentEnc_of_exec_enc hu]
  calc symbol (encodeQuantum s.alphabet v) j
      = readAlphabet s.alphabet (quintet v j) := symbol_encodeQuantum s.alphabet v j
    _ = readAlphabet s.alphabet (quintet w j) := congrArg (readAlphabet s.alphabet) sameQuintet
    _ = symbol (encodeQuantum s.alphabet w) j := (symbol_encodeQuantum s.alphabet w j).symm

/-- In a number below 32 only the last quintet is not zero (40_encode.md R70). -/
theorem quintet_eq_zero_of_lt {v : ByteQuantum} (small : v.toNat < 32) {j : Lane} (hj : j ≠ 7) : quintet v j = 0 := by
  have j7 : j.val ≠ 7 := fun h => hj (Fin.ext h)
  have above : v.toNat < 2 ^ (35 - 5 * j.val) :=
    lt_of_lt_of_le small (Nat.pow_le_pow_right (i := 5) two_pos (by omega))
  apply BitVec.eq_of_toNat_eq
  rw [quintet, BitVec.extractLsb'_toNat, Nat.shiftRight_eq_div_pow, Nat.div_eq_of_lt above]
  rfl

/-- Settles O1: each symbol is the alphabet's for its quintet (`symbol_encodeQuantum`), and the corner cases and the
example are computed from the fixed alphabet. -/
theorem encodeMapsQuintetsThroughAlphabet : Obligations.EncodeMapsQuintetsThroughAlphabet := by
  unfold Obligations.EncodeMapsQuintetsThroughAlphabet
  intro s v
  refine ⟨encodeQuantum s.alphabet v, exec_enc v s, symbol_encodeQuantum s.alphabet v, fun fixed => ?_⟩
  rw [fixed]
  refine ⟨?_, ?_, ?_, ?_, ?_, ?_⟩
  · rintro rfl; decide
  · rintro rfl; decide
  · intro small j hj
    rw [symbol_encodeQuantum, quintet_eq_zero_of_lt small hj]
    rfl
  · rintro rfl; decide
  · rintro rfl; decide
  · rintro rfl; decide

/-- Settles O4: the digits stand at the indices to 9 and the letters from 10 on, and no symbol is an alien byte
(`alien_fixedAlphabet_iff`). -/
theorem encodeEmitsDigitsOrLowercaseLetters : Obligations.EncodeEmitsDigitsOrLowercaseLetters := by
  unfold Obligations.EncodeEmitsDigitsOrLowercaseLetters
  rintro s v ⟨fixed, -⟩
  refine ⟨_, exec_enc v s, fun j => ?_⟩
  rw [State.presentEnc_encOut, symbol_encodeQuantum, fixed]
  have digit := readAlphabet_fixedAlphabet_digit (quintet v j)
  have letter := readAlphabet_fixedAlphabet_letter (quintet v j)
  have noAlien := mt (alien_fixedAlphabet_iff (readAlphabet fixedAlphabet (quintet v j))).mpr
    (not_forall_not.mpr ⟨quintet v j, rfl⟩)
  refine ⟨by omega, by omega, fun omitted => noAlien ?_⟩
  rcases List.mem_cons.mp omitted with hyphen | omitted
  · exact .inl (by rw [hyphen]; decide)
  · exact .inr (.inr (.inl omitted))

/-- The symbols of a text, lane by lane (00_scope.md R11). -/
theorem textSymbols_eq_map (t : TextQuantum) : textSymbols t = (List.finRange 8).map (symbol t) := rfl

/-- The top five bits of a 64-bit value (40_encode.md R72). -/
theorem setWidth_ushiftRight_59 (x : BitVec 64) : (x >>> 59).setWidth 5 = x.extractLsb' 59 5 := by
  apply BitVec.eq_of_getLsbD_eq
  intro i hi
  simp [hi]

/-- A shift left by 5 brings each five-bit field up by 5 (40_encode.md R72). -/
theorem extractLsb'_shiftLeft_five (x : BitVec 64) {start : Nat} (inside : start + 10 ≤ 64) :
    (x <<< 5).extractLsb' (start + 5) 5 = x.extractLsb' start 5 := by
  apply BitVec.eq_of_getLsbD_eq
  intro i hi
  have bound : start + i + 5 < 64 := by omega
  simpa [hi, Nat.add_right_comm start 5 i] using fun _ => bound

/-- The shift loop emits, one after the other, the symbols of the five-bit fields from the top down, as long as the
value has such fields (40_encode.md R72). -/
theorem encodeLoop_eq_map (a : ForwardTable) {n : Nat} (x : BitVec 64) (fields : n ≤ 12) :
    encodeLoop a n x = (List.range n).map fun k => readAlphabet a (x.extractLsb' (59 - 5 * k) 5) := by
  induction n generalizing x with
  | zero => rfl
  | succ n ih =>
    have next : ∀ k < n, (x <<< 5).extractLsb' (59 - 5 * k) 5 = x.extractLsb' (59 - 5 * (k + 1)) 5 := by
      intro k hk
      rw [← extractLsb'_shiftLeft_five x (by omega), show 59 - 5 * (k + 1) + 5 = 59 - 5 * k by omega]
    rw [encodeLoop, ih _ (by omega), List.range_succ_eq_map, List.map_cons, List.map_map, setWidth_ushiftRight_59]
    refine congrArg _ (List.map_congr_left fun k hk => ?_)
    exact congrArg (readAlphabet a) (next k (List.mem_range.mp hk))

/-- Put at the top of a 64-bit value the quintets are its five-bit fields from the top down (40_encode.md R72). -/
theorem quintet_eq_extractLsb'_append (v : ByteQuantum) (j : Lane) :
    quintet v j = (v ++ (0 : BitVec 24)).extractLsb' (59 - 5 * j.val) 5 := by
  rw [BitVec.extractLsb'_append_eq_of_le (by omega), quintet]
  congr 1
  omega

/-- Settles O6: the loop emits the symbols of the value's fields from the top down (`encodeLoop_eq_map`), and these are
the quintets (`quintet_eq_extractLsb'_append`). -/
theorem encodeMatchesShiftLoop : Obligations.EncodeMatchesShiftLoop := by
  unfold Obligations.EncodeMatchesShiftLoop
  intro s v
  refine ⟨_, exec_enc v s, ?_⟩
  rw [State.presentEnc_encOut, referenceEncode, encodeLoop_eq_map _ _ (by decide), textSymbols_eq_map]
  rw [← List.map_coe_finRange_eq_range, List.map_map]
  refine List.map_congr_left fun j _ => ?_
  rw [symbol_encodeQuantum, quintet_eq_extractLsb'_append]
  rfl

end Sys2Proof.Machine
end

section
/-! PROOFS. The decoder against the source's accumulation loop, and which texts it rejects under the fixed tables
(41_decode.md R80, R83, R85). -/

namespace Sys2Proof.Machine

/-- One turn of the accumulation: the accumulator moves up by five bits and takes the value in (41_decode.md R83). -/
def accumulate (acc : BitVec 64) (v : Quintet) : BitVec 64 := (acc <<< 5) ||| v.setWidth 64

/-- As long as nothing is shifted out of the 64 bits, one turn puts the value to the right of what is there. -/
theorem setWidth_accumulate {w : Nat} (fits : w + 5 ≤ 64) (acc : BitVec 64) (v : Quintet) :
    (accumulate acc v).setWidth (w + 5) = acc.setWidth w ++ v := by
  apply BitVec.eq_of_getLsbD_eq
  intro i hi
  have inside : i < 64 := by omega
  rw [accumulate, BitVec.getLsbD_append, BitVec.getLsbD_setWidth, BitVec.getLsbD_or, BitVec.getLsbD_shiftLeft,
    BitVec.getLsbD_setWidth, BitVec.getLsbD_setWidth]
  by_cases low : i < 5
  · simp [hi, low, inside]
  · have kept : i - 5 < w := by omega
    simp [hi, low, inside, kept, BitVec.getLsbD_of_ge v i (not_lt.mp low)]

/-- The first turn, from zero, leaves its value. -/
theorem setWidth_accumulate_zero (v : Quintet) : (accumulate 0 v).setWidth 5 = v := by
  simp [accumulate]

/-- Eight turns from zero put the eight values side by side (41_decode.md R83). -/
theorem setWidth_foldl_accumulate (q : Lane → Quintet) :
    (((List.finRange 8).map q).foldl accumulate 0).setWidth 40 = packQuintets q := by
  change (accumulate (accumulate (accumulate (accumulate (accumulate (accumulate (accumulate (accumulate 0
    (q 0)) (q 1)) (q 2)) (q 3)) (q 4)) (q 5)) (q 6)) (q 7)).setWidth 40 = _
  rw [setWidth_accumulate (w := 35) (by decide), setWidth_accumulate (w := 30) (by decide),
    setWidth_accumulate (w := 25) (by decide), setWidth_accumulate (w := 20) (by decide),
    setWidth_accumulate (w := 15) (by decide), setWidth_accumulate (w := 10) (by decide),
    setWidth_accumulate (w := 5) (by decide), setWidth_accumulate_zero, packQuintets]

/-- One turn of the loop on a symbol of the alphabet. -/
theorem decodeLoop_cons_of_valid {r : ReverseTable} {c : Byte} {v : Quintet} (h : readRlut r c = .valid v)
    (cs : List Byte) (acc : BitVec 64) : decodeLoop r (c :: cs) acc = decodeLoop r cs (accumulate acc v) := by
  simp only [decodeLoop, h, accumulate]

/-- The loop's short-circuit: it ends at a symbol outside the alphabet (41_decode.md R83). -/
theorem decodeLoop_cons_of_invalid {r : ReverseTable} {c : Byte} (h : readRlut r c = .invalid)
    (cs : List Byte) (acc : BitVec 64) : decodeLoop r (c :: cs) acc = .error .invalidSyntax := by
  simp only [decodeLoop, h]

/-- Over symbols that read the values given, the loop accumulates these. -/
theorem decodeLoop_map_of_valid {ι : Type} {r : ReverseTable} {c : ι → Byte} {q : ι → Quintet}
    (lanes : ∀ j, readRlut r (c j) = .valid (q j)) (js : List ι) (acc : BitVec 64) :
    decodeLoop r (js.map c) acc = .ok ((js.map q).foldl accumulate acc) := by
  induction js generalizing acc with
  | nil => rfl
  | cons j js ih =>
    rw [List.map_cons, decodeLoop_cons_of_valid (lanes j), ih, List.map_cons, List.foldl_cons]

/-- One symbol outside the alphabet, wherever it stands, makes the loop's outcome the error. -/
theorem decodeLoop_of_mem_invalid {r : ReverseTable} {c : Byte} (h : readRlut r c = .invalid) {cs : List Byte}
    (hc : c ∈ cs) (acc : BitVec 64) : decodeLoop r cs acc = .error .invalidSyntax := by
  induction cs generalizing acc with
  | nil => cases hc
  | cons d ds ih =>
    cases hd : readRlut r d with
    | invalid => exact decodeLoop_cons_of_invalid hd ds acc
    | valid v =>
      have hds : c ∈ ds := (List.mem_cons.mp hc).resolve_left fun hcd => by
        rw [hcd, hd] at h
        cases h
      rw [decodeLoop_cons_of_valid hd, ih hds]

/-- The parallel lanes and the sequential loop give one outcome: on an acceptance the values side by side, and with an
invalid lane the error (41_decode.md R83, 90_conflicts.md C3). -/
theorem outcomeOf_decodeQuantum_eq_referenceDecode (r : ReverseTable) (x : TextQuantum) :
    outcomeOf (decodeQuantum r x) = referenceDecode r x := by
  rcases decodeQuantum_cases r x with ⟨lanes, accepts⟩ | ⟨⟨j, invalid⟩, reject⟩
  · rw [outcomeOf_eq_ok_iff.mpr ⟨accepts, rfl⟩]
    simp only [referenceDecode, textSymbols_eq_map, decodeLoop_map_of_valid lanes, setWidth_foldl_accumulate,
      packQuintets_quintet]
  · have present : symbol x j ∈ textSymbols x := List.mem_map_of_mem (List.mem_finRange j)
    rw [reject, outcomeOf_rejected, referenceDecode, decodeLoop_of_mem_invalid invalid present]

/-- Settles O12: the next state shows the outcome of the unit, which is the loop's
(`outcomeOf_decodeQuantum_eq_referenceDecode`). -/
theorem decodeMatchesShortCircuitLoop : Obligations.DecodeMatchesShortCircuitLoop := by
  unfold Obligations.DecodeMatchesShortCircuitLoop
  intro s x
  exact ⟨_, exec_dec x s, outcomeOf_decodeQuantum_eq_referenceDecode s.rlut x⟩

/-- The encoding of a quantum decodes to it under the fixed tables (41_decode.md R86). -/
theorem decodeQuantum_fixed_of_encodeQuantum {b : ByteQuantum} {x : TextQuantum}
    (h : encodeQuantum fixedAlphabet b = x) : decodeQuantum fixedReverseTable x = { valid := 1, out := b } :=
  h ▸ decodeQuantum_encodeQuantum_of_construct construct_fixedAlphabet b

/-- Settles O8: all lanes valid is an acceptance, each lane reading its quintet, and one invalid lane is the rejection;
the texts of the corner cases and of the example are the encodings of the quanta they decode to. -/
theorem decodeMapsSymbolsOrRejects : Obligations.DecodeMapsSymbolsOrRejects := by
  unfold Obligations.DecodeMapsSymbolsOrRejects
  intro s x
  refine ⟨(decodeQuantum s.rlut x).out, (decodeQuantum s.rlut x).valid, exec_dec x s, fun noneInvalid => ?_, ?_,
    fun fixed => ?_⟩
  · rcases decodeQuantum_cases s.rlut x with ⟨lanes, accepts⟩ | ⟨⟨j, invalid⟩, -⟩
    · exact ⟨accepts, lanes⟩
    · exact absurd invalid (noneInvalid j)
  · rintro ⟨j, invalid⟩
    rw [decodeQuantum_eq_rejected_of_invalid_lane invalid]
    exact ⟨rfl, rfl⟩
  · rw [fixed]
    refine ⟨?_, ?_, ?_⟩
    · rintro rfl
      rw [decodeQuantum_fixed_of_encodeQuantum (b := 0) (by decide)]
      exact ⟨rfl, rfl⟩
    · rintro rfl
      rw [decodeQuantum_fixed_of_encodeQuantum (b := 0xFFFFFFFFFF) (by decide)]
      exact ⟨rfl, rfl⟩
    · rintro rfl
      rw [decodeQuantum_fixed_of_encodeQuantum (b := 0xF0E1D2C3B4) (by decide)]
      exact ⟨rfl, rfl⟩

/-- Settles O14: each byte named is in a range of the `Invalid` entries (`invalidEntriesAreTheListedRanges`), and one
invalid lane rejects the text. -/
theorem decodeFoldsNoCaseAndAliasesNothing : Obligations.DecodeFoldsNoCaseAndAliasesNothing := by
  unfold Obligations.DecodeFoldsNoCaseAndAliasesNothing
  rintro s x j ⟨-, fixed⟩ named
  have invalid : decLane s.rlut x j = .invalid := by
    rw [fixed, decLane, invalidEntriesAreTheListedRanges]
    have belowDigits : ∀ c ∈ [(0x2D : Byte), 0x20, 0x00], c.toNat ≤ 0x2F := by decide
    rcases named with ⟨fromA, toZ⟩ | listed | high
    · exact .inr (.inl ⟨by omega, by omega⟩)
    · rcases (List.mem_append (s := [0x69, 0x6C, 0x6F, 0x75]) (t := [0x2D, 0x20, 0x00])).mp listed with letter | other
      · exact .inr (.inr (.inl letter))
      · exact .inl (belowDigits _ other)
    · exact .inr (.inr (.inr (by omega)))
  have reject := decodeQuantum_eq_rejected_of_invalid_lane invalid
  refine ⟨_, exec_dec x s, ?_, ?_⟩
  · rw [State.presentDec_decValid, reject, rejected]
  · rw [State.presentDec_decResult, reject, outcomeOf_rejected]

end Sys2Proof.Machine
end
